-- ==== Sys2Proof/Word.lean ====
section
/-! DEFINITION. The two word types of the block (spec R9): `u8` and `u16`, both unsigned. -/

namespace Sys2Proof

/-- A byte, an unsigned integer in [0, 255] (R8). -/
abbrev Byte := BitVec 8

/-- `u16`, an unsigned integer in [0, 65535] (R9). -/
abbrev U16 := BitVec 16

end Sys2Proof
end

