-- ==== Sys2Proof/Config.lean ====
section
/-! DEFINITION. What an implementation fixes: the constants of R6 with the document's values (log 18, UNVERIFIED: the
document's literals are unaudited), the parameters of R7, and the open parameters as constants without a body. -/

namespace Sys2Proof.Config

/-- `HDR`, the first byte of the sync pair (R6). -/
abbrev hdr : Byte := 0x54

/-- `VER`, the second byte of the sync pair (R6). -/
abbrev ver : Byte := 0x2C

/-- `PAYLOAD_LEN`, the bytes of a RawFrame (R6). -/
abbrev payloadLen : Nat := 45

/-- `NSAMP`, the samples of a packet (R6). -/
abbrev nsamp : Nat := 12

/-- `SAMPLE_STRIDE`, the bytes of one sample (R6). -/
abbrev sampleStride : Nat := 3

/-- `SCALE`, the divisor from a raw field to its scaled value (R6). -/
abbrev scale : Nat := 100

/-- `FULL_TURN_CDEG`, 360 degrees in hundredths of a degree (R6). -/
abbrev fullTurnCdeg : Nat := 36000

/-- `INTERP_DIV`, the divisor of the angular span (R6): 12, not 11 (R154). -/
abbrev interpDiv : Nat := 12

/-- `ANG_UNITS_PER_TURN`, units of 1/1200 degree in one turn (R6). -/
abbrev angUnitsPerTurn : Nat := 432000

/-- Which function the parameter `CHK` of R7 is. -/
inductive Chk where
  /-- The default instance `CRC8_4D` (R163). PRESUMED (log 5): general knowledge of the LD06/LD19 family, not in the
  spec's source. -/
  | crc8_4D
  /-- Any function the implementer supplies: `suppliedChk`. -/
  | supplied
deriving DecidableEq, Repr

/-- An arbitrary instance of the open parameter `CHK` (R161): a total function of the 44 payload bytes alone, of which
nothing else is known (log 5). -/
opaque suppliedChk : Vector Byte 44 → Byte

/-- The uninterpreted label `DIST_UNIT` (R7, U2; log 17). -/
opaque distUnit : String

/-- The uninterpreted label `TS_UNIT` (R7, U1; log 17). -/
opaque tsUnit : String

/-- The static configuration of one run (R7, R30, R39). A threshold of 0 is outside the parameter's range (R7, U11), and so is a
bounded accumulator of fewer than 46 bytes (R7, R57): the type excludes both. -/
structure Params where
  /-- `FLUSH_THRESHOLD` -/
  flushThreshold : Nat
  /-- `CHECK_EN` -/
  checkEn : Bool
  /-- `CHK` -/
  chk : Chk
  /-- `ACC_CAP`, a number of bytes or unbounded (`none`) -/
  accCap : Option Nat
  thresholdPos : 1 ≤ flushThreshold
  accCapEnough : ∀ cap, accCap = some cap → 46 ≤ cap
deriving DecidableEq, Repr

/-- The default configuration (R7): `FLUSH_THRESHOLD = 40`, `CHECK_EN = 1`, `CHK = CRC8_4D`, `ACC_CAP`
unbounded as in the normative model. -/
def default : Params := ⟨40, true, .crc8_4D, none, by decide, by simp⟩

end Sys2Proof.Config
end

