-- ==== Sys2Proof/Machine/Records.lean ====
section
/-! DEFINITION. The record types of the spec (R31 to R34), the causes and events with their codes (R78), the values a
transaction or an operation returns, and the five transactions of the environment (R190). -/

namespace Sys2Proof.Machine

/-- RawFrame: exactly `PAYLOAD_LEN` = 45 bytes, by its type (R31). -/
abbrev RawFrame := Vector Byte 45

/-- One raw scan point (R33). -/
@[ext] structure Sample where
  distRaw : U16
  conf : Byte
deriving DecidableEq, Repr

/-- The decoded form of a RawFrame, raw integers only (R32); exactly `NSAMP` = 12 samples, by its type. -/
@[ext] structure Packet where
  speedRaw : U16
  fsaRaw : U16
  samples : Vector Sample 12
  lsaRaw : U16
  ts : U16
  chk : Byte
deriving DecidableEq, Repr

/-- A Sample with its bearing `ang` in units of 1/1200 degree (R34). -/
@[ext] structure Measurement where
  ang : Nat
  distRaw : U16
  conf : Byte
deriving DecidableEq, Repr

/-- The 12 Measurements of one packet, in index order (R140). -/
abbrev Measurements := Vector Measurement 12

/-- The cause codes of R78 and R210. -/
inductive Cause where
  /-- first boundary after reset -/
  | unsync
  /-- candidate length is not 45 -/
  | length
  /-- the checksum byte differs -/
  | checksum
  /-- the Byte Source failed -/
  | srcFail
deriving DecidableEq, Repr

/-- The number R78 gives a cause. -/
def Cause.code : Cause → Nat
  | .unsync => 1
  | .length => 2
  | .checksum => 3
  | .srcFail => 4

/-- The output event of an `RX` or `SRC_FAIL` step (R78, R198). -/
inductive Event where
  | none
  | frame (p : Packet) (m : Measurements)
  | discard (c : Cause)
  | fatal (c : Cause)
deriving DecidableEq, Repr

/-- The number R78 gives an event. -/
def Event.code : Event → Nat
  | .none => 0
  | .frame _ _ => 1
  | .discard _ => 2
  | .fatal _ => 3

/-- The synchronizer's own result for one byte (R12, R100). -/
inductive FrameEvent where
  | none
  | ready (f : RawFrame)
  | discarded (c : Cause)
deriving DecidableEq, Repr

/-- What a transaction returns (R190), or a frame-level operation run on its own (log 8). -/
inductive Output where
  /-- an event (`RX`, `SRC_FAIL`) -/
  | event (e : Event)
  /-- a truth value: `SHOULD_FLUSH`, `LENCHK`, and `CHKSUM` with true for PASS -/
  | flag (b : Bool)
  /-- the Batch that `FLUSH` returns; the speed is `none` where R174 says "no value" (log 20) -/
  | batch (ms : List Measurement) (speed : Option U16)
  | packet (p : Packet)
  | u16 (v : U16)
  | u8 (v : Byte)
  /-- an angular span in centidegrees (R141) -/
  | span (d : Int)
  /-- a bearing in units of 1/1200 degree (R142) -/
  | angle (a : Nat)
  | measurement (m : Measurement)
  | measurements (ms : Measurements)
deriving DecidableEq, Repr

/-- The five transactions of the environment (R190). -/
inductive Transaction where
  | rx (b : Byte)
  | srcFail
  | reset
  | shouldFlush
  | flush
deriving DecidableEq, Repr

end Sys2Proof.Machine
end

