-- ==== Sys2Proof/Machine/Operands.lean ====
section
/-! DEFINITION. The operand forms: the reads of the payload space (R52, R53), candidate extraction (R59), LENCHK (R105), the
field extractions of R121 to R127, DECODE (R120) and its inverse ENCODE (R129), and the wire form of a frame (R70). -/

namespace Sys2Proof.Machine

/-- Two bytes as a little-endian u16: `(hi << 8) | lo` (R53, R54). -/
def le16 (lo hi : Byte) : U16 := (hi.setWidth 16 <<< 8) ||| lo.setWidth 16

/-- `v[7:0]` (R8). -/
def loByte (v : U16) : Byte := v.extractLsb' 0 8

/-- `v[15:8]` (R8). -/
def hiByte (v : U16) : Byte := v.extractLsb' 8 8

/-- `MemRead(o, 1)`: the byte at payload offset `o`, 0 to 44 (R52). -/
def memRead1 (f : RawFrame) (o : Nat) (h : o ≤ 44 := by omega) : Byte :=
  f[o]'(Nat.lt_succ_of_le h)

/-- `MemRead(o, 2)`: the u16 at payload offset `o`, 0 to 43, low byte first (R53). -/
def memRead2 (f : RawFrame) (o : Nat) (h : o ≤ 43 := by omega) : U16 :=
  le16 (f[o]'(Nat.lt_succ_of_le (Nat.le_succ_of_le h))) (f[o + 1]'(Nat.succ_lt_succ (Nat.lt_succ_of_le h)))

/-- The offset of sample `i` (R74). -/
def sampleOffset (i : Fin 12) : Nat := 4 + Config.sampleStride * i.val

/-- DEC.SPEED (R121). -/
def speedField (f : RawFrame) : U16 := memRead2 f 0

/-- DEC.FSA (R122). -/
def fsaField (f : RawFrame) : U16 := memRead2 f 2

/-- DEC.DIST of sample `i` (R123). -/
def distField (f : RawFrame) (i : Fin 12) : U16 :=
  memRead2 f (sampleOffset i) (by unfold sampleOffset; simp only [Config.sampleStride]; omega)

/-- DEC.CONF of sample `i` (R124). -/
def confField (f : RawFrame) (i : Fin 12) : Byte :=
  memRead1 f (sampleOffset i + 2) (by unfold sampleOffset; simp only [Config.sampleStride]; omega)

/-- DEC.LSA (R125). -/
def lsaField (f : RawFrame) : U16 := memRead2 f 40

/-- DEC.TS (R126). -/
def tsField (f : RawFrame) : U16 := memRead2 f 42

/-- DEC.CHK (R127). -/
def chkField (f : RawFrame) : Byte := memRead1 f 44

/-- Lane `i` of the payload (R128). -/
def sampleField (f : RawFrame) (i : Fin 12) : Sample := ⟨distField f i, confField f i⟩

/-- DECODE (R120): the 29 extractions. -/
def decodePacket (f : RawFrame) : Packet where
  speedRaw := speedField f
  fsaRaw := fsaField f
  samples := Vector.ofFn (sampleField f)
  lsaRaw := lsaField f
  ts := tsField f
  chk := chkField f

/-- The 3 bytes of a sample, in payload order (R74). -/
def sampleBytes (x : Sample) : List Byte := [loByte x.distRaw, hiByte x.distRaw, x.conf]

/-- The payload bytes of a packet in offset order (R129). -/
def payloadBytes (p : Packet) : List Byte :=
  [loByte p.speedRaw, hiByte p.speedRaw, loByte p.fsaRaw, hiByte p.fsaRaw]
    ++ p.samples.toList.flatMap sampleBytes
    ++ [loByte p.lsaRaw, hiByte p.lsaRaw, loByte p.ts, hiByte p.ts, p.chk]

theorem payloadBytes_length (p : Packet) : (payloadBytes p).length = 45 := by
  have h : ∀ l : List Sample, (l.flatMap sampleBytes).length = 3 * l.length := by
    intro l
    induction l with
    | nil => rfl
    | cons x xs ih => simp only [List.flatMap_cons, List.length_append, ih, List.length_cons, sampleBytes, List.length_nil]; omega
  simp [payloadBytes, h]

/-- ENCODE (R129). -/
def encodePacket (p : Packet) : RawFrame := ⟨(payloadBytes p).toArray, by simpa using payloadBytes_length p⟩

/-- The wire form of a payload: the sync pair, then offsets 0 to 44 (R70). -/
def wireBytes (f : RawFrame) : List Byte := [Config.hdr, Config.ver] ++ f.toList

/-- LENCHK (R105): the length validation, with no tolerance. -/
def lenchk (cand : List Byte) : Bool := decide (cand.length = Config.payloadLen)

/-- The candidate as a RawFrame when LENCHK holds: `f[o] = acc[o]` (R59). -/
def rawFrame? (cand : List Byte) : Option RawFrame :=
  if h : lenchk cand = true then some ⟨cand.toArray, by simpa [lenchk] using h⟩ else none

/-- The candidate payload `acc[0 : len(acc)-1]` (R59): all but the last byte; of an empty accumulator, which R26 rules out
at a boundary, the empty slice (R8; log 11). -/
def candidate (acc : List Byte) : List Byte := acc.take (acc.length - 1)

end Sys2Proof.Machine
end

