-- ==== Sys2Proof/Syntax.lean ====
section
/-! DEFINITION. The instructions: one constructor per row of spec/opcode_table.json. The byte rows carry the byte, the
frame-level rows the values their rule calls operands (log 8). -/

namespace Sys2Proof

open Sys2Proof.Machine

/-- One constructor per row of the opcode table. -/
inductive Instr where
  /-- RX: the pipeline step `STEP(b)` for any byte (R191) -/
  | rx (b : Byte)
  /-- RX.HDR: the byte `0x54`, either state (R101) -/
  | rxHdr
  /-- RX.VER.SEEKING: the byte `0x2C` while `saw = 0` (R104) -/
  | rxVerSeeking
  /-- RX.VER.BOUNDARY: the byte `0x2C` while `saw = 1` (R103) -/
  | rxVerBoundary
  /-- RX.DAT: any other byte, either state (R102) -/
  | rxDat (b : Byte)
  /-- FRAME: the 47-byte wire frame of a packet (R70, R73, R81) -/
  | frame (p : Packet)
  /-- LENCHK (R105) -/
  | lenchk (cand : List Byte)
  /-- CHKSUM (R162) -/
  | chksum (f : RawFrame)
  /-- DECODE (R120) -/
  | decode (f : RawFrame)
  /-- DEC.SPEED (R121) -/
  | decSpeed (f : RawFrame)
  /-- DEC.FSA (R122) -/
  | decFsa (f : RawFrame)
  /-- DEC.DIST for sample `i` (R123) -/
  | decDist (f : RawFrame) (i : Fin 12)
  /-- DEC.CONF for sample `i` (R124) -/
  | decConf (f : RawFrame) (i : Fin 12)
  /-- DEC.LSA (R125) -/
  | decLsa (f : RawFrame)
  /-- DEC.TS (R126) -/
  | decTs (f : RawFrame)
  /-- DEC.CHK (R127) -/
  | decChk (f : RawFrame)
  /-- INTERP (R140) -/
  | interp (p : Packet)
  /-- INTERP.SPAN (R141) -/
  | interpSpan (fsa lsa : U16)
  /-- INTERP.ANG for sample `i` (R142) -/
  | interpAng (fsa : U16) (span : Int) (i : Fin 12)
  /-- INTERP.PAIR for sample `i` (R145) -/
  | interpPair (p : Packet) (i : Fin 12)
  /-- AGG.ACCEPT (R171) -/
  | aggAccept (m : Measurements) (speed : U16)
  /-- AGG.TICK (R172) -/
  | aggTick
  /-- SRC_FAIL (R216) -/
  | srcFail
  /-- RESET (R240) -/
  | reset
  /-- SHOULD_FLUSH (R173) -/
  | shouldFlush
  /-- FLUSH (R174) -/
  | flush
deriving DecidableEq, Repr

end Sys2Proof
end

