-- ==== Sys2Proof/WellFormed.lean ====
section
/-! DEFINITION. The operands the spec admits, for the rows whose operand types are wider than the rule's range. -/

namespace Sys2Proof

open Sys2Proof.Machine

/-- The byte is of the catch-all class of R72: neither `HDR` nor `VER`. -/
def isDataByte (b : Byte) : Bool := b != Config.hdr && b != Config.ver

/-- The span is in the range of R141, [-29535, 65535]. -/
def isSpan (d : Int) : Bool := decide (-29535 ≤ d) && decide (d ≤ 65535)

/-- Every bearing is in [0, 432000) (R34). -/
def anglesInTurn (ms : Measurements) : Bool :=
  ms.toList.all fun m => decide (m.ang < Config.angUnitsPerTurn)

/-- The operands are those the instruction's rule admits. -/
def Instr.wf : Instr → Bool
  | .rx _ => true
  | .rxHdr => true
  | .rxVerSeeking => true
  | .rxVerBoundary => true
  | .rxDat b => isDataByte b
  | .frame _ => true
  | .lenchk _ => true
  | .chksum _ => true
  | .decode _ => true
  | .decSpeed _ => true
  | .decFsa _ => true
  | .decDist _ _ => true
  | .decConf _ _ => true
  | .decLsa _ => true
  | .decTs _ => true
  | .decChk _ => true
  | .interp _ => true
  | .interpSpan _ _ => true
  | .interpAng _ span _ => isSpan span
  | .interpPair _ _ => true
  | .aggAccept m _ => anglesInTurn m
  | .aggTick => true
  | .srcFail => true
  | .reset => true
  | .shouldFlush => true
  | .flush => true

end Sys2Proof
end

