-- ==== Sys2Proof/Decode.lean ====
section
/-! DEFINITION. The instruction decoder and encoder. A single byte is one of the four byte rows, chosen by the ordered table
of R72 and the flag `saw`; 47 bytes are read against the FRAME pattern (R70, R73). Frame-level operations and commands have no
bit pattern (R82). -/

namespace Sys2Proof

open Sys2Proof.Machine

/-- Why a string of bytes is no instruction. -/
inductive Reject where
  /-- no byte at all -/
  | noBytes
  /-- neither the 1 byte of format BYTE nor the 47 bytes of format WIRE47 (R71, R72) -/
  | noSuchLength (n : Nat)
  /-- 47 bytes that do not begin with `54 2C` (R70) -/
  | noSyncPair
deriving DecidableEq, Repr

/-- The ordered byte-class table of R72: the rows top to bottom, the `RX.VER` row split by `saw` as in R100. -/
def decodeByte (saw : Bool) (b : Byte) : Instr :=
  if b = Config.hdr then .rxHdr
  else if b = Config.ver then (if saw then .rxVerBoundary else .rxVerSeeking)
  else .rxDat b

/-- The FRAME row: the sync pair, then the payload fields of R73. -/
def decodeWire (bs : List Byte) : Except Reject Instr :=
  match bs with
  | b0 :: b1 :: payload =>
    match rawFrame? payload with
    | none => .error (.noSuchLength bs.length)
    | some f => if b0 = Config.hdr ∧ b1 = Config.ver then .ok (.frame (decodePacket f)) else .error .noSyncPair
  | _ => .error (.noSuchLength bs.length)

/-- The instruction that a whole word of bytes is, in the synchronizer state `saw`. Total: every byte string is decoded or
rejected by name. -/
def decode (saw : Bool) (bs : List Byte) : Except Reject Instr :=
  match bs with
  | [] => .error .noBytes
  | [b] => .ok (decodeByte saw b)
  | _ => decodeWire bs

/-- The bytes of an instruction, for the rows that have a bit pattern (R70, R72); none for the others (R82). -/
def encode : Instr → Option (List Byte)
  | .rx b => some [b]
  | .rxHdr => some [Config.hdr]
  | .rxVerSeeking => some [Config.ver]
  | .rxVerBoundary => some [Config.ver]
  | .rxDat b => some [b]
  | .frame p => some (wireBytes (encodePacket p))
  | .lenchk _ => none
  | .chksum _ => none
  | .decode _ => none
  | .decSpeed _ => none
  | .decFsa _ => none
  | .decDist _ _ => none
  | .decConf _ _ => none
  | .decLsa _ => none
  | .decTs _ => none
  | .decChk _ => none
  | .interp _ => none
  | .interpSpan _ _ => none
  | .interpAng _ _ _ => none
  | .interpPair _ _ => none
  | .aggAccept _ _ => none
  | .aggTick => none
  | .srcFail => none
  | .reset => none
  | .shouldFlush => none
  | .flush => none

/-- The instruction that a transaction of the environment selects (R72, R190): a byte its row, a command itself. -/
def decodeTransaction (saw : Bool) : Transaction → Instr
  | .rx b => decodeByte saw b
  | .srcFail => .srcFail
  | .reset => .reset
  | .shouldFlush => .shouldFlush
  | .flush => .flush

/-- The bytes of a table word, the first byte the least significant. -/
def wordBytes (nbits w : Nat) : List Byte :=
  (List.range ((nbits + 7) / 8)).map fun k => BitVec.ofNat 8 (w >>> (8 * k))

/-- What the decoder reads from a table word in the state after reset, `saw = 0` (log 10). -/
def decodeTableWord (nbits w : Nat) : Option Instr :=
  (decode false (wordBytes nbits w)).toOption

end Sys2Proof
end

