-- ==== Sys2Proof/Machine/Flags.lean ====
section
/-! DEFINITION. The one-bit status computations (R29) and the conditions under which a byte row applies (R72). -/

namespace Sys2Proof.Machine

/-- The value of `saw` after byte `b` is appended (R22). -/
def sawAfter (b : Byte) : Bool := b == Config.hdr

/-- The byte closes a sync pair (R100). -/
def closesPair (saw : Bool) (b : Byte) : Bool := saw && b == Config.ver

/-- The condition of the `RX.DAT` row: neither `HDR` nor `VER` (R72, R102). -/
def datSelected (b : Byte) : Bool := b != Config.hdr && b != Config.ver

/-- `SHOULD_FLUSH`: a level, not a pulse (R173). -/
def flushDue (cycles threshold : Nat) : Bool := decide (threshold ≤ cycles)

/-- The speed of a flushed Batch, or "no value" before the first Packet (R174). -/
def reportedSpeed (speedValid : Bool) (speed : U16) : Option U16 := if speedValid then some speed else none

end Sys2Proof.Machine
end

