-- ==== Sys2Proof/Machine/State.lean ====
section
/-! DEFINITION. The state: the eight elements of R20; beside them the static configuration (R30), the environment's pending
transactions and the trace of returned values (R195), which the spec does not call state (log 1, 2, 4). -/

namespace Sys2Proof.Machine

/-- The block stops with no fault: a discard is a next state (R212) and a transaction that has no step is a refusal (R193),
so this type has no constructor (R210: "No other abnormal outcome exists"). -/
inductive Fault
deriving DecidableEq, Repr

/-- Why an instruction has no step. -/
inductive Refusal where
  /-- An instruction without a meaning in this model, by its mnemonic; no arm of `exec` raises it. Safe. -/
  | notModelled (mnemonic : String)
  /-- `RX` (and its four byte rows and `FRAME`) or `SRC_FAIL` while `fault = 1` (R193, R216, U8). Safe: nothing can be proved
  of what follows. -/
  | sourceFailed
  /-- A byte row whose condition in R72 does not hold: `RX.VER.SEEKING` while `saw = 1`, `RX.VER.BOUNDARY` while `saw = 0`,
  `RX.DAT` of a `HDR` or `VER` byte; the decoder never selects one (log 6). Safe. -/
  | rowNotSelected
  /-- Raised only by the bounded batch of Machine/Bounded.lean: more Measurements than it holds (R255, U7). Safe. -/
  | batchFull
deriving DecidableEq, Repr

/-- One instance of the block. -/
structure State where
  /-- the bytes since the last boundary, in arrival order (R21) -/
  acc : List Byte
  /-- whether the last appended byte was `HDR` (R22); `fsm = HEADER_SEEN` (R24) -/
  saw : Bool
  /-- whether a boundary has occurred since reset (R23) -/
  synced : Bool
  /-- whether the Byte Source has failed (R25) -/
  fault : Bool
  /-- the Measurements accepted since the last `FLUSH` (R35) -/
  batch : List Measurement
  /-- `speed_raw` of the last accepted Packet (R35) -/
  speed : U16
  /-- whether a Packet has been accepted since reset (R35) -/
  speedValid : Bool
  /-- boundaries since the last `FLUSH` (R35) -/
  cycles : Nat
  /-- the static configuration (R7, R30; log 4) -/
  cfg : Config.Params
  /-- what the environment will issue next, in order (R190; log 1) -/
  pending : List Transaction
  /-- what has been returned so far, in order (R195; log 2) -/
  trace : List Output
deriving DecidableEq, Repr

/-- The state after reset (R38), with the default configuration (R7), nothing pending and nothing returned. -/
def State.reset : State where
  acc := []
  saw := false
  synced := false
  fault := false
  batch := []
  speed := 0
  speedValid := false
  cycles := 0
  cfg := Config.default
  pending := []
  trace := []

end Sys2Proof.Machine
end

