-- ==== Sys2Proof/Machine/Ops.lean ====
section
/-! DEFINITION. The named operations over the state: the accumulator, the aggregator's elements, the returned value, the
entry into an error condition (R212, R216), and taking the next transaction. -/

namespace Sys2Proof.Machine

/-- The outcome of one step. -/
abbrev Result := Host.Outcome State Fault Refusal

/-- `emit` (R11), or the value a transaction or operation returns (R190). -/
def State.emit (v : Output) (s : State) : State := { s with trace := s.trace ++ [v] }

/-- `MemWrite(len(acc), 1, b)` (R51) together with the flag written beside it (R22). -/
def State.append (b : Byte) (saw : Bool) (s : State) : State := { s with acc := s.acc ++ [b], saw := saw }

/-- What every boundary does before its cause is known: clear the accumulator and the flag (R103). -/
def State.closeFrame (s : State) : State := { s with acc := [], saw := false }

/-- `synced <- 1` (R23). -/
def State.markSynced (s : State) : State := { s with synced := true }

/-- `AGG.TICK` (R172). -/
def State.tick (s : State) : State := { s with cycles := s.cycles + 1 }

/-- `AGG.ACCEPT(m, v)` (R171). -/
def State.accept (m : Measurements) (v : U16) (s : State) : State :=
  { s with batch := s.batch ++ m.toList, speed := v, speedValid := true, cycles := s.cycles + 1 }

/-- What `FLUSH` clears; the speed survives (R174). -/
def State.clearBatch (s : State) : State := { s with batch := [], cycles := 0 }

/-- The reset values of the eight elements (R240, R38); the configuration is not touched, and what the environment issues
next and the trace are not the block's. -/
def State.resetElements (s : State) : State :=
  { s with acc := [], saw := false, synced := false, fault := false,
           batch := [], speed := 0, speedValid := false, cycles := 0 }

/-- `raise Discard(c)`, the entry into a recoverable error condition: count the cycle and emit the event; the boundary has
already cleared the accumulator and the flag (R11, R212). Nothing is saved and nothing returns from it (R218). -/
def State.raiseDiscard (c : Cause) (s : State) : State := s.tick.emit (.event (.discard c))

/-- `raise Fatal(SRC_FAIL)` (R11, R216). The only return from it is `RESET` (R218). -/
def State.raiseFatal (s : State) : State := { s with fault := true }.emit (.event (.fatal .srcFail))

/-- The admission rule of the Byte Source's transactions: refused while `fault = 1` (R193, R217 (1)). -/
def whileHealthy (s : State) (k : State → Result) : Result :=
  if s.fault then .refused .sourceFailed else k s

/-- The accumulator space as (address, byte) pairs, addresses rising from 0 (R50; log 11). -/
def State.accCells (s : State) : List Host.Cell := s.acc.zipIdx.map fun c => (c.2, c.1)

/-- The byte of the accumulator space at address `a`; none at or above `len(acc)` (R50). -/
def State.accByte (s : State) (a : Nat) : Option Byte := s.acc[a]?

/-- The canonical form of a memory listing: addresses strictly rising. -/
def Memory.wf (m : List Host.Cell) : Bool := decide ((m.map Prod.fst).Pairwise (· < ·))

/-- Take the next transaction: its instruction, and the state without it. None when the environment has issued nothing. -/
def fetch (s : State) : Option (Instr × State) :=
  match s.pending with
  | [] => none
  | t :: rest => some (decodeTransaction s.saw t, { s with pending := rest })

end Sys2Proof.Machine
end

