-- ==== Sys2Proof/Machine/Aggregator.lean ====
section
/-! DEFINITION. The Measurement Aggregator's rows (R170 to R174). The two internal calls return nothing; the two transactions
of the Consumer are total, also while `fault = 1` (R173, R174). -/

namespace Sys2Proof.Machine

/-- AGG.ACCEPT (R171). -/
def execAggAccept (m : Measurements) (v : U16) (s : State) : Result := .next (s.accept m v)

/-- AGG.TICK (R172). -/
def execAggTick (s : State) : Result := .next s.tick

/-- SHOULD_FLUSH (R173): a pure read. -/
def execShouldFlush (s : State) : Result := .next (s.emit (.flag (flushDue s.cycles s.cfg.flushThreshold)))

/-- FLUSH (R174): returns the Batch, clears it and the cycle counter, keeps the speed. -/
def execFlush (s : State) : Result :=
  .next (s.clearBatch.emit (.batch s.batch (reportedSpeed s.speedValid s.speed)))

end Sys2Proof.Machine
end

