-- ==== Sys2Proof/Machine/PacketDecoder.lean ====
section
/-! DEFINITION. The Packet Decoder's rows: DECODE (R120) and the seven extractions (R121 to R127). Each is pure and total, and
returns its value (log 8). -/

namespace Sys2Proof.Machine

/-- DECODE (R120). -/
def execDecode (f : RawFrame) (s : State) : Result := .next (s.emit (.packet (decodePacket f)))

/-- DEC.SPEED (R121). -/
def execDecSpeed (f : RawFrame) (s : State) : Result := .next (s.emit (.u16 (speedField f)))

/-- DEC.FSA (R122). -/
def execDecFsa (f : RawFrame) (s : State) : Result := .next (s.emit (.u16 (fsaField f)))

/-- DEC.DIST of sample `i` (R123). -/
def execDecDist (f : RawFrame) (i : Fin 12) (s : State) : Result := .next (s.emit (.u16 (distField f i)))

/-- DEC.CONF of sample `i` (R124). -/
def execDecConf (f : RawFrame) (i : Fin 12) (s : State) : Result := .next (s.emit (.u8 (confField f i)))

/-- DEC.LSA (R125). -/
def execDecLsa (f : RawFrame) (s : State) : Result := .next (s.emit (.u16 (lsaField f)))

/-- DEC.TS (R126): raw, with no order and no wrap. -/
def execDecTs (f : RawFrame) (s : State) : Result := .next (s.emit (.u16 (tsField f)))

/-- DEC.CHK (R127): extracted whatever `CHECK_EN` is. -/
def execDecChk (f : RawFrame) (s : State) : Result := .next (s.emit (.u8 (chkField f)))

end Sys2Proof.Machine
end

