-- ==== Sys2Proof/Machine/Checksum.lean ====
section
/-! DEFINITION. Checksum validation: `CHKSUM` (R162), the parameter `CHK` (R161) and its default instance `CRC8_4D` (R163;
PRESUMED, log 5). -/

namespace Sys2Proof.Machine

/-- One bit of the CRC: shift out the top bit, and with it set reduce by the polynomial `0x4D` (R163). -/
def crcBit (c : Byte) : Byte := if c.getLsbD 7 then (c <<< 1) ^^^ 0x4D else c <<< 1

/-- One byte of the CRC: eight bits, most significant first (R163). -/
def crcByte (c x : Byte) : Byte := crcBit^[8] (c ^^^ x)

/-- The CRC of a byte sequence from the running value `c` (R163). -/
def crcFrom (c : Byte) (bs : List Byte) : Byte := bs.foldl crcByte c

/-- `CRC8_4D`: from `0x00` over the two sync bytes and the 44 payload bytes (R163). -/
def crc8_4D (p : Vector Byte 44) : Byte := crcFrom 0 ([Config.hdr, Config.ver] ++ p.toList)

/-- The function that the parameter `CHK` is (R161). -/
def chkOf : Config.Chk → Vector Byte 44 → Byte
  | .crc8_4D => crc8_4D
  | .supplied => Config.suppliedChk

/-- The checked bytes `f[0:44]` (R161). -/
def checkedBytes (f : RawFrame) : Vector Byte 44 :=
  Vector.ofFn fun k : Fin 44 => memRead1 f k.val (Nat.le_of_lt k.isLt)

/-- `CHKSUM(f)`, true for PASS (R162). -/
def chksumPasses (cfg : Config.Params) (f : RawFrame) : Bool :=
  if cfg.checkEn then chkOf cfg.chk (checkedBytes f) == chkField f else true

/-- CHKSUM (R162): returns the verdict; the configuration is read, no state is written. -/
def execChksum (f : RawFrame) (s : State) : Result := .next (s.emit (.flag (chksumPasses s.cfg f)))

end Sys2Proof.Machine
end

