-- ==== Sys2Proof/Machine/Interpolator.lean ====
section
/-! DEFINITION. The Angle Interpolator: SPAN (R141), ANG (R142), PAIR (R145) and INTERP (R140), all in the unbounded
integers. -/

namespace Sys2Proof.Machine

/-- `SPAN(fsa_raw, lsa_raw)` in centidegrees (R141). The comparison is strict (R149) and the subtraction does not wrap. -/
def spanOf (fsa lsa : U16) : Int :=
  let d : Int := (lsa.toNat : Int) - fsa.toNat
  if 0 < d then d else d + Config.fullTurnCdeg

/-- The numerator `span * i + 12 * fsa_raw` of R142 and R147. -/
def angNumerator (fsa : U16) (span : Int) (i : Fin 12) : Int := span * i.val + Config.interpDiv * fsa.toNat

/-- `ANG(fsa_raw, span, i)` in units of 1/1200 degree (R142). For a positive divisor `%` on `Int` is the floored modulo of
R9. -/
def angOf (fsa : U16) (span : Int) (i : Fin 12) : Nat :=
  (angNumerator fsa span i % Config.angUnitsPerTurn).toNat

/-- Measurement `i` of a packet (R145): its bearing with the sample's distance and confidence unchanged. -/
def pairOf (p : Packet) (i : Fin 12) : Measurement where
  ang := angOf p.fsaRaw (spanOf p.fsaRaw p.lsaRaw) i
  distRaw := p.samples[i].distRaw
  conf := p.samples[i].conf

/-- `INTERP(p)`: 12 Measurements in index order (R140). -/
def interpolate (p : Packet) : Measurements := Vector.ofFn (pairOf p)

/-- INTERP (R140). -/
def execInterp (p : Packet) (s : State) : Result := .next (s.emit (.measurements (interpolate p)))

/-- INTERP.SPAN (R141). -/
def execInterpSpan (fsa lsa : U16) (s : State) : Result := .next (s.emit (.span (spanOf fsa lsa)))

/-- INTERP.ANG (R142). -/
def execInterpAng (fsa : U16) (span : Int) (i : Fin 12) (s : State) : Result :=
  .next (s.emit (.angle (angOf fsa span i)))

/-- INTERP.PAIR (R145). -/
def execInterpPair (p : Packet) (i : Fin 12) (s : State) : Result := .next (s.emit (.measurement (pairOf p i)))

end Sys2Proof.Machine
end

