-- ==== Sys2Proof/Machine/Synchronizer.lean ====
section
/-! DEFINITION. The Frame Synchronizer on its own: the boundary (R103), `FEED` (R100), `RUN` (R109) and the LENCHK row. -/

namespace Sys2Proof.Machine

/-- The boundary, `RX.VER` in HEADER_SEEN (R103): the candidate is judged by `synced` first, then by its length (R217). -/
def boundary (s : State) : State × FrameEvent :=
  if s.synced then
    match rawFrame? (candidate s.acc) with
    | some f => (s.closeFrame, .ready f)
    | none => (s.closeFrame, .discarded .length)
  else (s.closeFrame.markSynced, .discarded .unsync)

/-- `FEED(b)` by the single formula of R100. -/
def feed (s : State) (b : Byte) : State × FrameEvent :=
  if closesPair s.saw b then boundary s else (s.append b (sawAfter b), .none)

/-- `RUN` (R109): the FrameEvents of the bytes in order, and the state they leave. -/
def runFeed : State → List Byte → State × List FrameEvent
  | s, [] => (s, [])
  | s, b :: bs =>
    let r := feed s b
    let rest := runFeed r.1 bs
    (rest.1, r.2 :: rest.2)

/-- LENCHK (R105): returns the verdict on a candidate; no state is read or written. -/
def execLenchk (cand : List Byte) (s : State) : Result := .next (s.emit (.flag (lenchk cand)))

end Sys2Proof.Machine
end

