-- ==== Sys2Proof/Machine/Pipeline.lean ====
section
/-! DEFINITION. The pipeline step `STEP(b)` (R191), the four byte rows as the step runs them, the FRAME row, and the
transactions SRC_FAIL (R216) and RESET (R240). -/

namespace Sys2Proof.Machine

/-- The stages behind the synchronizer, on its event (R191): checksum before anything derived from the frame is released. -/
def resolve (s : State) : FrameEvent → State
  | .none => s.emit (.event .none)
  | .discarded c => s.raiseDiscard c
  | .ready f =>
    if chksumPasses s.cfg f then
      let p := decodePacket f
      let m := interpolate p
      (s.accept m p.speedRaw).emit (.event (.frame p m))
    else s.raiseDiscard .checksum

/-- RX (R191): `STEP(b)`. -/
def execRx (b : Byte) (s : State) : Result :=
  whileHealthy s fun s =>
    let r := feed s b
    .next (resolve r.1 r.2)

/-- RX.HDR (R101): the byte is appended and the flag armed, in either state. -/
def execRxHdr (s : State) : Result :=
  whileHealthy s fun s => .next (resolve (s.append Config.hdr true) .none)

/-- RX.VER.SEEKING (R104): `0x2C` not directly after `0x54` is data. -/
def execRxVerSeeking (s : State) : Result :=
  whileHealthy s fun s =>
    if s.saw then .refused .rowNotSelected else .next (resolve (s.append Config.ver false) .none)

/-- RX.VER.BOUNDARY (R103, R191). -/
def execRxVerBoundary (s : State) : Result :=
  whileHealthy s fun s =>
    if s.saw then
      let r := boundary s
      .next (resolve r.1 r.2)
    else .refused .rowNotSelected

/-- RX.DAT (R102): the byte is appended and the flag disarmed, in either state. -/
def execRxDat (b : Byte) (s : State) : Result :=
  whileHealthy s fun s =>
    if datSelected b then .next (resolve (s.append b false) .none) else .refused .rowNotSelected

/-- The bytes of a chunk received one after the other (R60, R109); the first refusal ends it. -/
def receive : List Byte → State → Result
  | [], s => .next s
  | b :: bs, s =>
    match execRx b s with
    | .next t => receive bs t
    | .fault r => .fault r
    | .refused r => .refused r

/-- FRAME (R70, R81): the 47 wire bytes of the packet, received in order (log 9). -/
def execFrame (p : Packet) (s : State) : Result := receive (wireBytes (encodePacket p)) s

/-- SRC_FAIL (R216). -/
def execSrcFail (s : State) : Result := whileHealthy s fun s => .next s.raiseFatal

/-- RESET (R240): accepted in every state, returns nothing and emits no event. -/
def execReset (s : State) : Result := .next s.resetElements

end Sys2Proof.Machine
end

