-- ==== Sys2Proof/Machine/Dispatch.lean ====
section
/-! DEFINITION. One arm per instruction, each a direct call of its meaning. -/

namespace Sys2Proof.Machine

def exec (i : Instr) (s : State) : Host.Outcome State Fault Refusal :=
  match i with
  | .rx b => Sys2Proof.Machine.execRx b s
  | .rxHdr => Sys2Proof.Machine.execRxHdr s
  | .rxVerSeeking => Sys2Proof.Machine.execRxVerSeeking s
  | .rxVerBoundary => Sys2Proof.Machine.execRxVerBoundary s
  | .rxDat b => Sys2Proof.Machine.execRxDat b s
  | .frame p => Sys2Proof.Machine.execFrame p s
  | .lenchk cand => Sys2Proof.Machine.execLenchk cand s
  | .chksum f => Sys2Proof.Machine.execChksum f s
  | .decode f => Sys2Proof.Machine.execDecode f s
  | .decSpeed f => Sys2Proof.Machine.execDecSpeed f s
  | .decFsa f => Sys2Proof.Machine.execDecFsa f s
  | .decDist f k => Sys2Proof.Machine.execDecDist f k s
  | .decConf f k => Sys2Proof.Machine.execDecConf f k s
  | .decLsa f => Sys2Proof.Machine.execDecLsa f s
  | .decTs f => Sys2Proof.Machine.execDecTs f s
  | .decChk f => Sys2Proof.Machine.execDecChk f s
  | .interp p => Sys2Proof.Machine.execInterp p s
  | .interpSpan fsa lsa => Sys2Proof.Machine.execInterpSpan fsa lsa s
  | .interpAng fsa span k => Sys2Proof.Machine.execInterpAng fsa span k s
  | .interpPair p k => Sys2Proof.Machine.execInterpPair p k s
  | .aggAccept m v => Sys2Proof.Machine.execAggAccept m v s
  | .aggTick => Sys2Proof.Machine.execAggTick s
  | .srcFail => Sys2Proof.Machine.execSrcFail s
  | .reset => Sys2Proof.Machine.execReset s
  | .shouldFlush => Sys2Proof.Machine.execShouldFlush s
  | .flush => Sys2Proof.Machine.execFlush s

end Sys2Proof.Machine
end

