-- ==== Sys2Proof/Machine/Step.lean ====
section
/-! DEFINITION. One step: the next transaction of the environment, as its instruction. With nothing pending the block holds
its state (R5, R227; log 3). -/

namespace Sys2Proof.Machine

def step (s : State) : Host.Outcome State Fault Refusal :=
  match fetch s with
  | none => .next s
  | some (i, t) => exec i t

/-- The bytes of the word as the next transactions of the Byte Source, before whatever is already pending (log 13). -/
def State.withFetchWord (s : State) (nbits w : Nat) : State :=
  { s with pending := (wordBytes nbits w).map Transaction.rx ++ s.pending }

end Sys2Proof.Machine
end

