-- ==== Sys2Proof/Machine/Bounded.lean ====
section
/-! DEFINITION. The bounded realisations the spec licenses beside the normative model: the accumulator of `ACC_CAP` bytes with a
saturating counter (R57 for 46 bytes; log 24 for more), and a batch of fixed capacity (R175, R255, U7). No instruction uses them;
they are related to the normative state by statements. -/

namespace Sys2Proof.Machine

/-- The synchronizer with the bounded accumulator (R57). What `buf` holds at or above `n` is not specified (log 16). -/
structure BoundedSync (cap : Nat) where
  buf : Vector Byte cap
  n : Nat
  saw : Bool
  synced : Bool
deriving DecidableEq, Repr

/-- The bounded `append` (R57): bytes beyond the last index are dropped and the counter saturates at `cap + 1`, for 46 bytes at
47. -/
def BoundedSync.append {cap : Nat} (x : BoundedSync cap) (b : Byte) : BoundedSync cap :=
  { x with
    buf := if h : x.n < cap then x.buf.set x.n b h else x.buf
    n := min (x.n + 1) (cap + 1)
    saw := sawAfter b }

/-- `n <- 0 ; saw <- 0` (R57), and `synced <- 1` (R103). -/
def BoundedSync.close {cap : Nat} (x : BoundedSync cap) : BoundedSync cap := { x with n := 0, saw := false, synced := true }

/-- `buf[0..44]`, meaningful only when `n = 46` (R57). -/
def BoundedSync.frame {cap : Nat} (h : 46 ≤ cap) (x : BoundedSync cap) : RawFrame :=
  Vector.ofFn fun k : Fin 45 => x.buf[k.val]'(Nat.lt_of_lt_of_le (Nat.lt_succ_of_lt k.isLt) h)

/-- `FEED` over the bounded accumulator (R57, R103). -/
def boundedFeed {cap : Nat} (h : 46 ≤ cap) (x : BoundedSync cap) (b : Byte) : BoundedSync cap × FrameEvent :=
  if closesPair x.saw b then
    if x.synced then
      if x.n = 46 then (x.close, .ready (x.frame h)) else (x.close, .discarded .length)
    else (x.close, .discarded .unsync)
  else (x.append b, .none)

/-- The FrameEvents of a stream, from the bounded synchronizer. -/
def boundedRun {cap : Nat} (h : 46 ≤ cap) : BoundedSync cap → List Byte → BoundedSync cap × List FrameEvent
  | x, [] => (x, [])
  | x, b :: bs =>
    let r := boundedFeed h x b
    let rest := boundedRun h r.1 bs
    (rest.1, r.2 :: rest.2)

/-- `STEP(b)` (R191) with the bounded synchronizer in front of the stages behind it; of `s` only what those stages hold is
used. -/
def boundedStep {cap : Nat} (h : 46 ≤ cap) (x : BoundedSync cap) (b : Byte) (s : State) : BoundedSync cap × State :=
  let r := boundedFeed h x b
  (r.1, resolve s r.2)

/-- The FrameEvents of a stream from reset with the accumulator that `ACC_CAP` asks for, a bounded one holding `fill` at
first. -/
def eventsUnder (cfg : Config.Params) (fill : (cap : Nat) → Vector Byte cap) (bs : List Byte) : List FrameEvent :=
  match h : cfg.accCap with
  | none => (runFeed State.reset bs).2
  | some cap => (boundedRun (cfg.accCapEnough cap h) ⟨fill cap, 0, false, false⟩ bs).2

/-- `AGG.ACCEPT` of a realisation whose batch holds `capacity` Measurements: refused when it would exceed it (U7). -/
def boundedAccept (capacity : Nat) (m : Measurements) (v : U16) (s : State) : Result :=
  if s.batch.length + Config.nsamp ≤ capacity then .next (s.accept m v) else .refused .batchFull

end Sys2Proof.Machine
end

