-- ==== Sys2Proof/Machine/Derived.lean ====
section
/-! DEFINITION. The derived values that the spec defines as exact rationals of the raw integers and never stores (R32, R33,
R143, R146, R176), the bearing in radians, which is a real number (R146), and the Consumer's projection of a Batch (R179). No
operation reads any of them. -/

namespace Sys2Proof.Machine

/-- `raw / 100` (R75). -/
def scaled (raw : U16) : Rat := (raw.toNat : Rat) / (Config.scale : Nat)

/-- Rotational speed in degrees per second (R121). -/
def Packet.speed (p : Packet) : Rat := scaled p.speedRaw

/-- Start angle in degrees (R122). -/
def Packet.fsa (p : Packet) : Rat := scaled p.fsaRaw

/-- End angle in degrees (R125). -/
def Packet.lsa (p : Packet) : Rat := scaled p.lsaRaw

/-- Distance in distance units (R123). -/
def Sample.dist (x : Sample) : Rat := scaled x.distRaw

/-- The angular step in degrees, `span / 1200` (R143). -/
def angleStep (span : Int) : Rat := (span : Rat) / (Config.interpDiv * Config.scale : Nat)

/-- The bearing in degrees, `ang / 1200` (R146). -/
def Measurement.angleDeg (m : Measurement) : Rat := (m.ang : Rat) / (Config.interpDiv * Config.scale : Nat)

/-- The bearing in radians, `ang * π / 216000` (R146): a real number, which only the Consumer's `RAD_RENDER` turns into a finite
format. -/
noncomputable def Measurement.angleRad (m : Measurement) : ℝ := m.ang * Real.pi / 216000

/-- The Consumer's view of a flushed Batch (R179), for any rendering `RAD_RENDER` of a bearing as a number of the Consumer's
(R7; log 17). -/
def consumerView {Num : Type} (radRender : Nat → Num) (ms : List Measurement) (speed : Option U16) :
    List (Num × Rat) × Option Rat :=
  (ms.map fun m => (radRender m.ang, scaled m.distRaw), speed.map scaled)

end Sys2Proof.Machine
end

