-- ==== Sys2Proof/Safety.lean ====
section
/-! DEFINITION. What counts as a good state and a good run: the invariants of the spec, the duty of the environment (R197), the
absence of an embedded sync pair, and sequences of operations. -/

namespace Sys2Proof.Safety

open Sys2Proof.Machine

/-- The adjacent pair `54 2C` occurs somewhere in the bytes (R107, R251). -/
def hasPair : List Byte → Bool
  | b :: c :: rest => (b == Config.hdr && c == Config.ver) || hasPair (c :: rest)
  | _ => false

/-- R26: `saw = 1` exactly when `acc` is non-empty and ends in `HDR`. -/
abbrev SawLaw (s : State) : Prop := s.saw = true ↔ s.acc.getLast? = some Config.hdr

/-- The accumulator holds no sync pair: each one was a boundary (R21, R107). -/
abbrev NoPairHeld (s : State) : Prop := hasPair s.acc = false

/-- R175: at most 12 Measurements for each cycle since the last flush, and always whole packets. -/
abbrev BatchLaw (s : State) : Prop := s.batch.length ≤ 12 * s.cycles ∧ s.batch.length % 12 = 0

/-- R34: every bearing held is in [0, 432000). -/
abbrev AngleLaw (s : State) : Prop := ∀ m ∈ s.batch, m.ang < 432000

/-- Before the first boundary no cycle has been counted and no Packet accepted (R23, R172); before the first Packet the
aggregator holds nothing and its speed is the reset value (R35, R38). -/
abbrev FreshLaw (s : State) : Prop :=
  (s.synced = false → s.cycles = 0 ∧ s.speedValid = false) ∧
  (s.speedValid = false → s.batch = [] ∧ s.speed = 0)

/-- The duty of the Byte Source (R193, R197): neither `RX` nor `SRC_FAIL` between a `SRC_FAIL` and the next `RESET`. -/
def admissible : Bool → List Transaction → Bool
  | _, [] => true
  | fault, .rx _ :: rest => !fault && admissible fault rest
  | fault, .srcFail :: rest => !fault && admissible true rest
  | _, .reset :: rest => admissible false rest
  | fault, .shouldFlush :: rest => admissible fault rest
  | fault, .flush :: rest => admissible fault rest

/-- A sequence of operations, each on the state the one before left. -/
def execAll : List Instr → State → Result
  | [], s => .next s
  | i :: is, s =>
    match exec i s with
    | .next t => execAll is t
    | .fault r => .fault r
    | .refused r => .refused r

/-- The output event of a step whose synchronizer result is given (R191): a frame is released only past its checksum. -/
def reported (cfg : Config.Params) : FrameEvent → Event
  | .none => .none
  | .discarded c => .discard c
  | .ready f =>
    if chksumPasses cfg f then .frame (decodePacket f) (interpolate (decodePacket f)) else .discard .checksum

/-- The Measurements that an event carries (R198). -/
def released : Event → List Measurement
  | .none => []
  | .frame _ m => m.toList
  | .discard _ => []
  | .fatal _ => []

/-- A call of the aggregator by the pipeline (R170): AGG.TICK, or AGG.ACCEPT of Measurements and a speed. -/
def aggCall : Option (Measurements × U16) → Instr
  | none => .aggTick
  | some (m, v) => .aggAccept m v

/-- The Measurements a call of the aggregator hands over. -/
def handedOver : Option (Measurements × U16) → List Measurement
  | none => []
  | some (m, _) => m.toList

/-- The operations that only read and return a value: LENCHK, CHKSUM, the decoder's and the interpolator's rows, and
SHOULD_FLUSH. -/
def readsOnly : Instr → Bool
  | .lenchk _ => true
  | .chksum _ => true
  | .decode _ => true
  | .decSpeed _ => true
  | .decFsa _ => true
  | .decDist _ _ => true
  | .decConf _ _ => true
  | .decLsa _ => true
  | .decTs _ => true
  | .decChk _ => true
  | .interp _ => true
  | .interpSpan _ _ => true
  | .interpAng _ _ _ => true
  | .interpPair _ _ => true
  | .shouldFlush => true
  | .rx _ => false
  | .rxHdr => false
  | .rxVerSeeking => false
  | .rxVerBoundary => false
  | .rxDat _ => false
  | .frame _ => false
  | .aggAccept _ _ => false
  | .aggTick => false
  | .srcFail => false
  | .reset => false
  | .flush => false

/-- The bounded synchronizer holds what the normative one does, as far as R57 keeps it. -/
def Tracks {cap : Nat} (x : BoundedSync cap) (s : State) : Prop :=
  x.n = min s.acc.length (cap + 1) ∧ x.saw = s.saw ∧ x.synced = s.synced ∧
  ∀ i, i < min s.acc.length cap → x.buf.toList[i]? = s.acc[i]?

end Sys2Proof.Safety
end

