-- ==== Sys2Proof/Certificates/Slice0/Obligations.lean ====
section
/-! DEFINITION. The statements for the provers. Each docstring names the rule of the spec it formalises. The values are written
out from the rules (bytes as literals, fields by their numbers, states by their fields), not by the model's own operations. -/

open Sys2Proof Sys2Proof.Machine Sys2Proof.Safety

/-! ## Encoding -/

/-- Words written out from R72 and R70 decode to what they stand for: the byte rows in both states of `saw`, and the FRAME word
of frame B of the test vectors. -/
def Obligations.TableWordsDecode : Prop :=
  decode false [0x54] = .ok .rxHdr ∧ decode true [0x54] = .ok .rxHdr ∧
  decode false [0x2C] = .ok .rxVerSeeking ∧ decode true [0x2C] = .ok .rxVerBoundary ∧
  decode false [0x00] = .ok (.rxDat 0x00) ∧ decode true [0xFF] = .ok (.rxDat 0xFF) ∧
  decode false [0x54, 0x2C, 0xA0, 0x8C, 0xB8, 0x88, 0xC8, 0x00, 0x00, 0xC9, 0x00, 0x0A, 0xCA, 0x00, 0x14, 0xCB, 0x00, 0x1E,
      0xCC, 0x00, 0x28, 0xCD, 0x00, 0x32, 0xCE, 0x00, 0x3C, 0xCF, 0x00, 0x46, 0xD0, 0x00, 0x50, 0xD1, 0x00, 0x5A, 0xD2, 0x00,
      0x64, 0xD3, 0x00, 0x6E, 0xE8, 0x03, 0x04, 0x29, 0x4B] =
    .ok (.frame ⟨36000, 35000, #v[⟨200, 0⟩, ⟨201, 10⟩, ⟨202, 20⟩, ⟨203, 30⟩, ⟨204, 40⟩, ⟨205, 50⟩, ⟨206, 60⟩, ⟨207, 70⟩,
      ⟨208, 80⟩, ⟨209, 90⟩, ⟨210, 100⟩, ⟨211, 110⟩], 1000, 10500, 0x4B⟩)

/-- R72: every byte is of exactly one class, in every state of `saw`, and its row is well formed. -/
def Obligations.EveryByteIsOneRow : Prop :=
  ∀ (saw : Bool) (b : Byte), ∃ i : Instr, decode saw [b] = .ok i ∧ i.wf = true ∧
    (i = .rxHdr ↔ b = 0x54) ∧ (i = .rxVerBoundary ↔ b = 0x2C ∧ saw = true) ∧
    (i = .rxVerSeeking ↔ b = 0x2C ∧ saw = false) ∧ (i = .rxDat b ↔ b ≠ 0x54 ∧ b ≠ 0x2C)

/-- Decoding the bytes of a well-formed instruction gives it back: the byte rows in the state of `saw` that R72 gives them, and
FRAME with every field (R70, R73). The words of RX are those of the four byte rows (R72), so RX itself is set apart. -/
def Obligations.DecodeInvertsEncode : Prop :=
  ∀ (i : Instr) (saw : Bool) (bs : List Byte), i.wf = true → encode i = some bs → (∀ b, i ≠ .rx b) →
    (i = .rxVerSeeking → saw = false) → (i = .rxVerBoundary → saw = true) → decode saw bs = .ok i

/-- R73 and R74: the 47-byte word of a frame decodes to FRAME with each field at its offset, low byte first. -/
def Obligations.FrameWordFields : Prop :=
  ∀ (saw : Bool) (f : RawFrame), ∃ p : Packet, decode saw (0x54 :: 0x2C :: f.toList) = .ok (.frame p) ∧
    p.speedRaw.toNat = f[0].toNat + 256 * f[1].toNat ∧ p.fsaRaw.toNat = f[2].toNat + 256 * f[3].toNat ∧
    (∀ i : Fin 12, p.samples[i].distRaw.toNat = f[4 + 3 * i.val].toNat + 256 * f[5 + 3 * i.val].toNat ∧
      p.samples[i].conf = f[6 + 3 * i.val]) ∧
    p.lsaRaw.toNat = f[40].toNat + 256 * f[41].toNat ∧ p.ts.toNat = f[42].toNat + 256 * f[43].toNat ∧ p.chk = f[44]

/-- R71, R72: a word of any other length is refused, and so are 47 bytes that do not begin with the sync pair. -/
def Obligations.OtherWordsRejected : Prop :=
  ∀ (saw : Bool) (bs : List Byte),
    (bs.length ≠ 1 → bs.length ≠ 47 → ∃ r, decode saw bs = .error r) ∧
    (bs.length = 47 → bs.take 2 ≠ [0x54, 0x2C] → decode saw bs = .error .noSyncPair)

/-- R129: ENCODE puts each field at its bytes, and DECODE and ENCODE are inverse to each other. -/
def Obligations.PayloadRoundTrip : Prop :=
  ∀ (p : Packet) (f : RawFrame), decodePacket (encodePacket p) = p ∧ encodePacket (decodePacket f) = f ∧
    (encodePacket p)[0] = p.speedRaw.extractLsb' 0 8 ∧ (encodePacket p)[1] = p.speedRaw.extractLsb' 8 8 ∧
    (encodePacket p)[2] = p.fsaRaw.extractLsb' 0 8 ∧ (encodePacket p)[3] = p.fsaRaw.extractLsb' 8 8 ∧
    (∀ i : Fin 12, (encodePacket p)[4 + 3 * i.val] = p.samples[i].distRaw.extractLsb' 0 8 ∧
      (encodePacket p)[5 + 3 * i.val] = p.samples[i].distRaw.extractLsb' 8 8 ∧
      (encodePacket p)[6 + 3 * i.val] = p.samples[i].conf) ∧
    (encodePacket p)[40] = p.lsaRaw.extractLsb' 0 8 ∧ (encodePacket p)[41] = p.lsaRaw.extractLsb' 8 8 ∧
    (encodePacket p)[42] = p.ts.extractLsb' 0 8 ∧ (encodePacket p)[43] = p.ts.extractLsb' 8 8 ∧
    (encodePacket p)[44] = p.chk

/-! ## The step -/

/-- A step runs the instruction that the next transaction decodes to, on the state without that transaction; with nothing
pending it changes nothing (the model's own input queue: log 1, log 3). -/
def Obligations.StepRunsDecodedInstruction : Prop :=
  ∀ (s : State) (rest : List Transaction),
    (∀ b i, s.pending = .rx b :: rest → decode s.saw [b] = .ok i → step s = exec i { s with pending := rest }) ∧
    (s.pending = .srcFail :: rest → step s = exec .srcFail { s with pending := rest }) ∧
    (s.pending = .reset :: rest → step s = exec .reset { s with pending := rest }) ∧
    (s.pending = .shouldFlush :: rest → step s = exec .shouldFlush { s with pending := rest }) ∧
    (s.pending = .flush :: rest → step s = exec .flush { s with pending := rest }) ∧
    (s.pending = [] → step s = .next s)

/-- R100: the pipeline step by the single formula is the step by the four-way dispatch, in every state. -/
def Obligations.RxIsItsByteRow : Prop :=
  ∀ (b : Byte) (s : State), exec (.rx b) s =
    if b = 0x54 then exec .rxHdr s
    else if b = 0x2C ∧ s.saw = true then exec .rxVerBoundary s
    else if b = 0x2C ∧ s.saw = false then exec .rxVerSeeking s
    else exec (.rxDat b) s

/-- R194 with R100 and R191: `RX` is accepted for every byte in every state without a fault. A byte that closes no pair is
appended and returns NONE; one that does empties the accumulator, counts a cycle and returns one event other than NONE. -/
def Obligations.RxAlwaysAccepted : Prop :=
  ∀ (b : Byte) (s : State), s.fault = false →
    (¬ (s.saw = true ∧ b = 0x2C) → exec (.rx b) s =
      .next { s with acc := s.acc ++ [b], saw := decide (b = 0x54), trace := s.trace ++ [.event .none] }) ∧
    (s.saw = true → b = 0x2C → ∃ t e, exec (.rx b) s = .next t ∧ t.acc = [] ∧ t.saw = false ∧ t.synced = true ∧
      t.cycles = s.cycles + 1 ∧ t.trace = s.trace ++ [.event e] ∧ e ≠ .none)

/-- R101, R102, R104: what the three appending rows do, whole: the byte at the end of `acc`, the flag, event NONE, and nothing
else. -/
def Obligations.AppendRowsComplete : Prop :=
  ∀ s : State, s.fault = false →
    exec .rxHdr s = .next { s with acc := s.acc ++ [0x54], saw := true, trace := s.trace ++ [.event .none] } ∧
    (s.saw = false → exec .rxVerSeeking s =
      .next { s with acc := s.acc ++ [0x2C], saw := false, trace := s.trace ++ [.event .none] }) ∧
    (∀ b : Byte, b ≠ 0x54 → b ≠ 0x2C → exec (.rxDat b) s =
      .next { s with acc := s.acc ++ [b], saw := false, trace := s.trace ++ [.event .none] })

/-- R103 and R191: what a boundary does, whole, in each of its four cases. -/
def Obligations.BoundaryOutcomes : Prop :=
  ∀ s : State, s.fault = false → s.saw = true →
    (s.synced = false → exec .rxVerBoundary s =
      .next { s with acc := [], saw := false, synced := true, cycles := s.cycles + 1,
                     trace := s.trace ++ [.event (.discard .unsync)] }) ∧
    (s.synced = true → (s.acc.take (s.acc.length - 1)).length ≠ 45 → exec .rxVerBoundary s =
      .next { s with acc := [], saw := false, cycles := s.cycles + 1,
                     trace := s.trace ++ [.event (.discard .length)] }) ∧
    (∀ f : RawFrame, s.synced = true → f.toList = s.acc.take (s.acc.length - 1) →
      (s.cfg.checkEn = true ∧ chkOf s.cfg.chk (checkedBytes f) ≠ f[44] → exec .rxVerBoundary s =
        .next { s with acc := [], saw := false, cycles := s.cycles + 1,
                       trace := s.trace ++ [.event (.discard .checksum)] }) ∧
      (s.cfg.checkEn = false ∨ chkOf s.cfg.chk (checkedBytes f) = f[44] → exec .rxVerBoundary s =
        .next { s with acc := [], saw := false, batch := s.batch ++ (interpolate (decodePacket f)).toList,
                       speed := (decodePacket f).speedRaw, speedValid := true, cycles := s.cycles + 1,
                       trace := s.trace ++ [.event (.frame (decodePacket f) (interpolate (decodePacket f)))] }))

/-- A byte row runs only where R72 selects it (log 6, the model's own refusal); the refusal of R193 comes first (R217). -/
def Obligations.UnselectedRowsRefused : Prop :=
  ∀ s : State, s.fault = false →
    (s.saw = true → exec .rxVerSeeking s = .refused .rowNotSelected) ∧
    (s.saw = false → exec .rxVerBoundary s = .refused .rowNotSelected) ∧
    exec (.rxDat 0x54) s = .refused .rowNotSelected ∧ exec (.rxDat 0x2C) s = .refused .rowNotSelected

/-- R78: the codes of events and causes, and exactly one event for each `RX` and `SRC_FAIL` step. -/
def Obligations.OneEventPerStep : Prop :=
  Event.none.code = 0 ∧ (∀ p m, (Event.frame p m).code = 1) ∧ (∀ c, (Event.discard c).code = 2) ∧
  (∀ c, (Event.fatal c).code = 3) ∧ Cause.unsync.code = 1 ∧ Cause.length.code = 2 ∧ Cause.checksum.code = 3 ∧
  Cause.srcFail.code = 4 ∧
  ∀ (s t : State) (i : Instr), (i = .srcFail ∨ ∃ b, i = .rx b) → exec i s = .next t →
    ∃ e, t.trace = s.trace ++ [.event e] ∧ (e = .fatal .srcFail ↔ i = .srcFail) ∧ (∀ c, e = .fatal c → c = .srcFail) ∧
      e ≠ .discard .srcFail

/-- R212, R213, R217: a discard empties the accumulator, clears the flag and counts a cycle; nothing else changes but `synced`
with UNSYNC, which is the cause exactly at the first boundary. -/
def Obligations.DiscardEffect : Prop :=
  ∀ (s t : State) (b : Byte) (c : Cause), exec (.rx b) s = .next t → t.trace = s.trace ++ [.event (.discard c)] →
    t = { s with acc := [], saw := false, synced := true, cycles := s.cycles + 1, trace := t.trace } ∧
    (c = .unsync ↔ s.synced = false) ∧
    (c = .length → (s.acc.take (s.acc.length - 1)).length ≠ 45) ∧
    (c = .checksum → (s.acc.take (s.acc.length - 1)).length = 45 ∧ s.cfg.checkEn = true)

/-! ## Frame-level operations -/

/-- R105: LENCHK is true exactly of 45 bytes, and changes nothing. -/
def Obligations.LenchkVerdict : Prop :=
  ∀ (cand : List Byte) (s : State), ∃ v : Bool,
    exec (.lenchk cand) s = .next { s with trace := s.trace ++ [.flag v] } ∧ (v = true ↔ cand.length = 45)

/-- R162: CHKSUM passes with `CHECK_EN = 0`, or when `CHK` of the first 44 bytes is the last byte; it changes nothing. -/
def Obligations.ChksumVerdict : Prop :=
  ∀ (f : RawFrame) (c : Vector Byte 44) (s : State), c.toList = f.toList.take 44 → ∃ v : Bool,
    exec (.chksum f) s = .next { s with trace := s.trace ++ [.flag v] } ∧
    (v = true ↔ s.cfg.checkEn = false ∨ chkOf s.cfg.chk c = f[44])

/-- R165: with `CHECK_EN = 0` every length-valid candidate after the first boundary becomes a frame, whatever `CHK` is, and its
checksum byte is delivered. -/
def Obligations.BaseDesignReportsEveryFrame : Prop :=
  ∀ (s : State) (f : RawFrame) (k : Config.Chk), s.fault = false → s.synced = true → s.saw = true → s.cfg.checkEn = false →
    f.toList = s.acc.take (s.acc.length - 1) →
    ∃ t p m, exec (.rx 0x2C) { s with cfg := { s.cfg with chk := k } } = .next t ∧
      t.trace = s.trace ++ [.event (.frame p m)] ∧ p.chk = f[44] ∧ encodePacket p = f

/-- The default `CHK` (R163, the family's CRC: log 5, PRESUMED) changes whenever exactly one of the 44 bytes changes. -/
def Obligations.DefaultChkSeesOneByte : Prop :=
  ∀ (p : Vector Byte 44) (i : Fin 44) (b : Byte), b ≠ p[i] → crc8_4D (p.set i b) ≠ crc8_4D p

/-- R120: DECODE returns every field from its offset, low byte first, and changes nothing. -/
def Obligations.DecodeFields : Prop :=
  ∀ (f : RawFrame) (s : State), ∃ p : Packet,
    exec (.decode f) s = .next { s with trace := s.trace ++ [.packet p] } ∧
    p.speedRaw.toNat = f[0].toNat + 256 * f[1].toNat ∧ p.fsaRaw.toNat = f[2].toNat + 256 * f[3].toNat ∧
    (∀ i : Fin 12, p.samples[i].distRaw.toNat = f[4 + 3 * i.val].toNat + 256 * f[5 + 3 * i.val].toNat ∧
      p.samples[i].conf = f[6 + 3 * i.val]) ∧
    p.lsaRaw.toNat = f[40].toNat + 256 * f[41].toNat ∧ p.ts.toNat = f[42].toNat + 256 * f[43].toNat ∧ p.chk = f[44]

/-- R121 to R127 with the scaled values of R75: each extraction returns its field and changes nothing. -/
def Obligations.FieldRowsComplete : Prop :=
  ∀ (f : RawFrame) (s : State),
    (∃ v : U16, exec (.decSpeed f) s = .next { s with trace := s.trace ++ [.u16 v] } ∧
      v.toNat = f[0].toNat + 256 * f[1].toNat ∧ scaled v * 100 = v.toNat) ∧
    (∃ v : U16, exec (.decFsa f) s = .next { s with trace := s.trace ++ [.u16 v] } ∧
      v.toNat = f[2].toNat + 256 * f[3].toNat ∧ scaled v * 100 = v.toNat) ∧
    (∀ i : Fin 12, ∃ v : U16, exec (.decDist f i) s = .next { s with trace := s.trace ++ [.u16 v] } ∧
      v.toNat = f[4 + 3 * i.val].toNat + 256 * f[5 + 3 * i.val].toNat ∧ scaled v * 100 = v.toNat) ∧
    (∀ i : Fin 12, exec (.decConf f i) s = .next { s with trace := s.trace ++ [.u8 f[6 + 3 * i.val]] }) ∧
    (∃ v : U16, exec (.decLsa f) s = .next { s with trace := s.trace ++ [.u16 v] } ∧
      v.toNat = f[40].toNat + 256 * f[41].toNat ∧ scaled v * 100 = v.toNat) ∧
    (∃ v : U16, exec (.decTs f) s = .next { s with trace := s.trace ++ [.u16 v] } ∧
      v.toNat = f[42].toNat + 256 * f[43].toNat) ∧
    exec (.decChk f) s = .next { s with trace := s.trace ++ [.u8 f[44]] }

/-- R141: the span by its strict comparison, unwrapped, with its range; negative exactly as R148 (c) says. -/
def Obligations.SpanRule : Prop :=
  ∀ (fsa lsa : U16) (s : State), ∃ d : Int,
    exec (.interpSpan fsa lsa) s = .next { s with trace := s.trace ++ [.span d] } ∧
    (fsa.toNat < lsa.toNat → d = (lsa.toNat : Int) - fsa.toNat) ∧
    (lsa.toNat ≤ fsa.toNat → d = (lsa.toNat : Int) - fsa.toNat + 36000) ∧
    -29535 ≤ d ∧ d ≤ 65535 ∧ (fsa.toNat < 36000 → lsa.toNat < 36000 → 1 ≤ d ∧ d ≤ 36000) ∧
    (d < 0 ↔ lsa.toNat + 36000 < fsa.toNat)

/-- R142: the bearing is the floored remainder of `span * i + 12 * fsa_raw` by one turn, in [0, 432000), for every span. -/
def Obligations.AngRule : Prop :=
  ∀ (fsa : U16) (span : Int) (i : Fin 12) (s : State), ∃ (a : Nat) (q : Int),
    exec (.interpAng fsa span i) s = .next { s with trace := s.trace ++ [.angle a] } ∧
    a < 432000 ∧ span * i.val + 12 * fsa.toNat = a + 432000 * q

/-- R140 and R145: INTERP returns twelve Measurements in index order, Measurement `i` with the bearing of R142 and the distance
and confidence of sample `i`; INTERP.PAIR returns one of them. Neither changes anything else. -/
def Obligations.InterpolationPairs : Prop :=
  ∀ (p : Packet) (s : State), ∃ m : Measurements,
    exec (.interp p) s = .next { s with trace := s.trace ++ [.measurements m] } ∧
    ∀ i : Fin 12, m[i].distRaw = p.samples[i].distRaw ∧ m[i].conf = p.samples[i].conf ∧
      (m[i].ang : Int) = ((if p.fsaRaw.toNat < p.lsaRaw.toNat then (p.lsaRaw.toNat : Int) - p.fsaRaw.toNat
        else (p.lsaRaw.toNat : Int) - p.fsaRaw.toNat + 36000) * i.val + 12 * p.fsaRaw.toNat) % 432000 ∧
      exec (.interpPair p i) s = .next { s with trace := s.trace ++ [.measurement m[i]] }

/-- R147: the range of every intermediate value, with the greatest numerator reached; the numerator is never negative, so the
floored and the truncated modulo agree, and at most two turns are taken off. -/
def Obligations.NumeratorBounds : Prop :=
  angNumerator 65535 (spanOf 65535 65535) 11 = 1182420 ∧ ∀ (fsa lsa : U16) (i : Fin 12),
    -65535 ≤ (lsa.toNat : Int) - fsa.toNat ∧ (lsa.toNat : Int) - fsa.toNat ≤ 65535 ∧
    -29535 ≤ spanOf fsa lsa ∧ spanOf fsa lsa ≤ 65535 ∧ 12 * fsa.toNat ≤ 786420 ∧ angOf fsa (spanOf fsa lsa) i ≤ 431999 ∧
    -324885 ≤ spanOf fsa lsa * i.val ∧ spanOf fsa lsa * i.val ≤ 720885 ∧
    0 ≤ angNumerator fsa (spanOf fsa lsa) i ∧ angNumerator fsa (spanOf fsa lsa) i ≤ 1182420 ∧
    angNumerator fsa (spanOf fsa lsa) i / 432000 ≤ 2 ∧
    (angNumerator fsa (spanOf fsa lsa) i).tmod 432000 = angNumerator fsa (spanOf fsa lsa) i % 432000

/-- R154: sample 0 is at the start angle, and sample 11 falls short of the end angle by one step. -/
def Obligations.OnlySampleZeroIsPinned : Prop :=
  ∀ (p : Packet), (p.fsaRaw.toNat < 36000 → (interpolate p)[0].ang = 12 * p.fsaRaw.toNat) ∧
    ((((interpolate p)[11].ang : Int) + spanOf p.fsaRaw p.lsaRaw) % 432000 = (12 * p.lsaRaw.toNat : Int) % 432000)

/-- R149: equal start and end angles spread the twelve Measurements over a full turn, 30 degrees apart. -/
def Obligations.EqualAnglesFullTurn : Prop :=
  ∀ (p : Packet) (i : Fin 12), p.fsaRaw = p.lsaRaw →
    (interpolate p)[i].ang = (36000 * i.val + 12 * p.fsaRaw.toNat) % 432000

/-- R150: with both angles below 360 degrees the bearings strictly increase in index order but for at most one descent, and
there is one exactly when the sweep reaches 360 degrees. -/
def Obligations.SweepWrapsAtMostOnce : Prop :=
  ∀ (p : Packet), p.fsaRaw.toNat < 36000 → p.lsaRaw.toNat < 36000 →
    (∀ i : Fin 11, (interpolate p)[i.val].ang ≠ (interpolate p)[i.val + 1].ang) ∧
    ((List.finRange 11).filter fun i => decide ((interpolate p)[i.val + 1].ang < (interpolate p)[i.val].ang)).length =
      (if 432000 ≤ 12 * (p.fsaRaw.toNat : Int) + 11 * spanOf p.fsaRaw p.lsaRaw then 1 else 0)

/-- R146: the bearing in degrees is the exact rational `ang / 1200`, and in radians `angleDeg * π / 180`, which is
`ang * π / 216000` and irrational but for 0; within one turn they lie in [0, 360) and [0, 2π), and so for every Measurement that
is interpolated. -/
def Obligations.BearingInRadians : Prop :=
  (∀ m : Measurement, m.angleDeg = (m.ang : Rat) / 1200 ∧ m.angleRad = (m.angleDeg : ℝ) * Real.pi / 180 ∧
    m.angleRad = (m.ang : ℝ) * Real.pi / 216000 ∧ (Irrational m.angleRad ↔ m.ang ≠ 0) ∧
    (m.ang < 432000 → 0 ≤ m.angleDeg ∧ m.angleDeg < 360 ∧ 0 ≤ m.angleRad ∧ m.angleRad < 2 * Real.pi)) ∧
  ∀ (p : Packet) (i : Fin 12), 0 ≤ (interpolate p)[i].angleDeg ∧ (interpolate p)[i].angleDeg < 360 ∧
    0 ≤ (interpolate p)[i].angleRad ∧ (interpolate p)[i].angleRad < 2 * Real.pi

/-! ## The aggregator -/

/-- R171 and R172: what the two internal calls do, whole; and in the pipeline a byte counts a cycle exactly when it is a
boundary, whatever its outcome. -/
def Obligations.AcceptAndTick : Prop :=
  (∀ (m : Measurements) (v : U16) (s : State),
    exec (.aggAccept m v) s =
      .next { s with batch := s.batch ++ m.toList, speed := v, speedValid := true, cycles := s.cycles + 1 } ∧
    exec .aggTick s = .next { s with cycles := s.cycles + 1 }) ∧
  ∀ (b : Byte) (s t : State), exec (.rx b) s = .next t →
    t.cycles = s.cycles + (if s.saw = true ∧ b = 0x2C then 1 else 0)

/-- R173: SHOULD_FLUSH returns whether the threshold is reached, in every state, and changes nothing. -/
def Obligations.ShouldFlushIsALevel : Prop :=
  ∀ s : State, ∃ v : Bool, exec .shouldFlush s = .next { s with trace := s.trace ++ [.flag v] } ∧
    (v = true ↔ s.cfg.flushThreshold ≤ s.cycles)

/-- R174: FLUSH returns the batch and the speed, if there is one, in every state; it clears the batch and the counter and keeps
the speed. -/
def Obligations.FlushReturnsTheBatch : Prop :=
  ∀ s : State,
    (s.speedValid = true → exec .flush s =
      .next { s with batch := [], cycles := 0, trace := s.trace ++ [.batch s.batch (some s.speed)] }) ∧
    (s.speedValid = false → exec .flush s =
      .next { s with batch := [], cycles := 0, trace := s.trace ++ [.batch s.batch none] })

/-- R177: from `cycles = 0`, after any calls of AGG.ACCEPT and AGG.TICK the flush is due exactly when their number has reached
the threshold, and FLUSH returns what was accepted, in call order. -/
def Obligations.ThresholdCountsEveryCall : Prop :=
  ∀ (calls : List (Option (Measurements × U16))) (s : State), s.cycles = 0 → s.batch = [] →
    ∃ t v, execAll (calls.map aggCall) s = .next t ∧
      exec .shouldFlush t = .next { t with trace := t.trace ++ [.flag (decide (s.cfg.flushThreshold ≤ calls.length))] } ∧
      exec .flush t = .next { t with batch := [], cycles := 0, trace := t.trace ++ [.batch (calls.flatMap handedOver) v] }

/-- R175: a batch of `12 * FLUSH_THRESHOLD` Measurements suffices while the flush is not due, and a fuller one refuses (U7). -/
def Obligations.BoundedBatchSuffices : Prop :=
  ∀ (s : State) (m : Measurements) (v : U16), BatchLaw s →
    (s.cycles < s.cfg.flushThreshold →
      boundedAccept (12 * s.cfg.flushThreshold) m v s = exec (.aggAccept m v) s) ∧
    (∀ capacity, capacity < s.batch.length + 12 → boundedAccept capacity m v s = .refused .batchFull)

/-! ## Error conditions and reset -/

/-- R216: SRC_FAIL sets `fault`, returns FATAL(SRC_FAIL) and changes nothing else; while `fault = 1` it is refused. -/
def Obligations.SourceFailure : Prop :=
  ∀ s : State,
    (s.fault = false → exec .srcFail s =
      .next { s with fault := true, trace := s.trace ++ [.event (.fatal .srcFail)] }) ∧
    (s.fault = true → exec .srcFail s = .refused .sourceFailed)

/-- R193: while `fault = 1` the Byte Source's transactions are refused, under every row of them, and the Consumer's three have
their step. -/
def Obligations.RefusalWhileFaulted : Prop :=
  ∀ s : State, s.fault = true →
    (∀ b, exec (.rx b) s = .refused .sourceFailed) ∧ exec .rxHdr s = .refused .sourceFailed ∧
    exec .rxVerSeeking s = .refused .sourceFailed ∧ exec .rxVerBoundary s = .refused .sourceFailed ∧
    (∀ b, exec (.rxDat b) s = .refused .sourceFailed) ∧ (∀ p, exec (.frame p) s = .refused .sourceFailed) ∧
    exec .srcFail s = .refused .sourceFailed ∧
    (∃ t, exec .shouldFlush s = .next t) ∧ (∃ t, exec .flush s = .next t) ∧ (∃ t, exec .reset s = .next t)

/-- R240: RESET gives every element its reset value in every state, returns nothing, and does not touch the configuration. -/
def Obligations.ResetComplete : Prop :=
  ∀ s : State, exec .reset s = .next ⟨[], false, false, false, [], 0, false, 0, s.cfg, s.pending, s.trace⟩

/-- R38: the eight elements after reset. -/
def Obligations.ResetValues : Prop :=
  State.reset.acc = [] ∧ State.reset.saw = false ∧ State.reset.synced = false ∧ State.reset.fault = false ∧
  State.reset.batch = [] ∧ State.reset.speed = 0 ∧ State.reset.speedValid = false ∧ State.reset.cycles = 0

/-! ## Frames -/

/-- The operations that only read (LENCHK, CHKSUM, the decoder, the interpolator, SHOULD_FLUSH) leave every element, every byte
of the accumulator, the configuration and the pending transactions, and return exactly one value. -/
def Obligations.ReadingOperationsFrame : Prop :=
  ∀ (i : Instr) (s : State), readsOnly i = true → ∃ t v, exec i s = .next t ∧ t.trace = s.trace ++ [v] ∧
    t.acc = s.acc ∧ t.saw = s.saw ∧ t.synced = s.synced ∧ t.fault = s.fault ∧ t.batch = s.batch ∧ t.speed = s.speed ∧
    t.speedValid = s.speedValid ∧ t.cycles = s.cycles ∧ t.cfg = s.cfg ∧ t.pending = s.pending ∧
    ∀ a, t.accByte a = s.accByte a

/-- RX.HDR, RX.VER.SEEKING and RX.DAT leave every element but `acc` and `saw`, and every byte of the accumulator but the one at
address `len(acc)`. -/
def Obligations.AppendRowsFrame : Prop :=
  ∀ (i : Instr) (s t : State), (i = .rxHdr ∨ i = .rxVerSeeking ∨ ∃ b, i = .rxDat b) → exec i s = .next t →
    t.synced = s.synced ∧ t.fault = s.fault ∧ t.batch = s.batch ∧ t.speed = s.speed ∧ t.speedValid = s.speedValid ∧
    t.cycles = s.cycles ∧ t.cfg = s.cfg ∧ t.pending = s.pending ∧ t.trace = s.trace ++ [.event .none] ∧
    (∀ a, a ≠ s.acc.length → t.accByte a = s.accByte a) ∧ (t.accByte s.acc.length).isSome = true

/-- RX and RX.VER.BOUNDARY leave `fault`, the configuration and the pending transactions; what the batch held stays in front of
what it gains, and the speed and its flag change only with a FRAME event. -/
def Obligations.RxFrame : Prop :=
  ∀ (i : Instr) (s t : State), (i = .rxVerBoundary ∨ ∃ b, i = .rx b) → exec i s = .next t →
    t.fault = s.fault ∧ t.cfg = s.cfg ∧ t.pending = s.pending ∧ (s.synced = true → t.synced = true) ∧
    s.batch <+: t.batch ∧ s.cycles ≤ t.cycles ∧ t.cycles ≤ s.cycles + 1 ∧
    ((∃ p m, t.trace = s.trace ++ [.event (.frame p m)] ∧ t.batch = s.batch ++ m.toList ∧ t.speed = p.speedRaw ∧
        t.speedValid = true) ∨
      (t.batch = s.batch ∧ t.speed = s.speed ∧ t.speedValid = s.speedValid))

/-- AGG.ACCEPT, AGG.TICK and FLUSH leave the synchronizer's elements, `fault`, every byte of the accumulator, the configuration
and the pending transactions; AGG.TICK leaves the batch and the speed too, and FLUSH the speed. -/
def Obligations.AggregatorFrame : Prop :=
  ∀ (i : Instr) (s : State), ((∃ m v, i = .aggAccept m v) ∨ i = .aggTick ∨ i = .flush) →
    ∃ t, exec i s = .next t ∧ t.acc = s.acc ∧ (∀ a, t.accByte a = s.accByte a) ∧ t.saw = s.saw ∧ t.synced = s.synced ∧
      t.fault = s.fault ∧ t.cfg = s.cfg ∧ t.pending = s.pending ∧
      (i = .aggTick → t.batch = s.batch) ∧
      ((i = .aggTick ∨ i = .flush) → t.speed = s.speed ∧ t.speedValid = s.speedValid)

/-- R30, R240, R258: no instruction changes the configuration; none changes what the environment will issue (log 1). -/
def Obligations.ConfigurationIsStatic : Prop :=
  ∀ (i : Instr) (s t : State), exec i s = .next t → t.cfg = s.cfg ∧ t.pending = s.pending

/-- R23, R25, R29: `synced`, `fault` and `speed_valid` are cleared by RESET only; only SRC_FAIL sets `fault`. -/
def Obligations.StickyBits : Prop :=
  ∀ (i : Instr) (s t : State), exec i s = .next t → i ≠ .reset →
    (s.synced = true → t.synced = true) ∧ (s.fault = true → t.fault = true) ∧
    (s.speedValid = true → t.speedValid = true) ∧ (i ≠ .srcFail → t.fault = s.fault)

/-! ## Invariants -/

/-- R26: `saw = 1` exactly when the accumulator ends in `HDR`, after reset and kept by every step. -/
def Obligations.SawTracksLastByte : Prop :=
  SawLaw State.reset ∧ ∀ s t : State, SawLaw s → step s = .next t → SawLaw t

/-- R21 and R107: with R26, every step keeps the accumulator free of the sync pair. -/
def Obligations.AccumulatorHoldsNoPair : Prop :=
  ∀ s t : State, SawLaw s → NoPairHeld s → step s = .next t → NoPairHeld t

/-- R175: every step keeps the batch at whole packets, at most 12 Measurements for each cycle. -/
def Obligations.BatchWithinCycles : Prop :=
  ∀ s t : State, BatchLaw s → step s = .next t → BatchLaw t

/-- R34: every step keeps every bearing held in [0, 432000). -/
def Obligations.BearingsInOneTurn : Prop :=
  ∀ s t : State, AngleLaw s → step s = .next t → AngleLaw t

/-- R23, R35, R172: every step keeps the law of the fresh block: nothing counted before the first boundary, nothing held before
the first Packet. -/
def Obligations.FreshBlockHoldsNothing : Prop :=
  ∀ s t : State, FreshLaw s → step s = .next t → FreshLaw t

/-- The invariants hold after reset, and the reset configuration is the default of R7 (its `CHK` PRESUMED: log 5), with nothing
pending and nothing returned (log 1, log 2). -/
def Obligations.InvariantsAtReset : Prop :=
  SawLaw State.reset ∧ NoPairHeld State.reset ∧ BatchLaw State.reset ∧ AngleLaw State.reset ∧ FreshLaw State.reset ∧
  State.reset.cfg.flushThreshold = 40 ∧ State.reset.cfg.checkEn = true ∧ State.reset.cfg.chk = .crc8_4D ∧
  State.reset.cfg.accCap = none ∧
  State.reset.pending = [] ∧ State.reset.trace = []

/-! ## Streams -/

/-- R109: feeding two chunks one after the other is feeding their concatenation, from any state that agrees on `acc`, `saw` and
`synced`: they are all the synchronizer carries, so neither the events nor what it carries on depend on anything else. -/
def Obligations.ChunkingDoesNotMatter : Prop :=
  ∀ (s u : State) (as bs : List Byte), u.acc = s.acc → u.saw = s.saw → u.synced = s.synced →
    (runFeed u (as ++ bs)).2 = (runFeed s as).2 ++ (runFeed (runFeed s as).1 bs).2 ∧
    (runFeed u (as ++ bs)).1.acc = (runFeed (runFeed s as).1 bs).1.acc ∧
    (runFeed u (as ++ bs)).1.saw = (runFeed (runFeed s as).1 bs).1.saw ∧
    (runFeed u (as ++ bs)).1.synced = (runFeed (runFeed s as).1 bs).1.synced

/-- R109 and R191: one step of the machine for each byte of a stream carries on what `RUN` does and returns its FrameEvents, each
as the pipeline reports it; a cycle is counted for each that is not NONE, and the batch gains what the frames release. -/
def Obligations.StreamStepsAreRun : Prop :=
  ∀ (s : State) (bs : List Byte) (rest : List Transaction), s.fault = false →
    s.pending = bs.map Transaction.rx ++ rest →
    ∃ t, core.run bs.length s = .next t ∧ t.pending = rest ∧ t.fault = false ∧ t.cfg = s.cfg ∧
      t.acc = (runFeed s bs).1.acc ∧ t.saw = (runFeed s bs).1.saw ∧ t.synced = (runFeed s bs).1.synced ∧
      t.trace = s.trace ++ (runFeed s bs).2.map (fun e => .event (reported s.cfg e)) ∧
      t.cycles = s.cycles + ((runFeed s bs).2.filter fun e => decide (e ≠ .none)).length ∧
      t.batch = s.batch ++ (runFeed s bs).2.flatMap fun e => released (reported s.cfg e)

/-- R110: `N` back-to-back frames without an embedded pair, from reset: UNSYNC at the first pair, then each frame but the last
at the pair of the one after it, nothing at any other byte, and the last frame left in the accumulator. -/
def Obligations.BackToBackFrames : Prop :=
  ∀ (frames : List RawFrame) (last : RawFrame), (∀ f ∈ frames ++ [last], hasPair f.toList = false) →
    (runFeed State.reset ((frames ++ [last]).flatMap fun f => 0x54 :: 0x2C :: f.toList)).2 =
      (FrameEvent.discarded .unsync :: frames.map FrameEvent.ready).flatMap (fun e => .none :: e :: List.replicate 45 .none) ∧
    (runFeed State.reset ((frames ++ [last]).flatMap fun f => 0x54 :: 0x2C :: f.toList)).1.acc = last.toList

/-- R111: after a boundary, a frame followed by garbage costs one LENGTH discard and the frame; every frame after it is
reported. -/
def Obligations.GarbageCostsOneFrame : Prop :=
  ∀ (s : State) (p1 : RawFrame) (g : List Byte) (later : List RawFrame), s.synced = true → s.saw = false → s.acc = [] →
    g ≠ [] → hasPair (p1.toList ++ g) = false → (∀ f ∈ later, hasPair f.toList = false) →
    (runFeed s (p1.toList ++ g ++ [0x54, 0x2C] ++ later.flatMap fun f => f.toList ++ [0x54, 0x2C])).2 =
      List.replicate (46 + g.length) .none ++ [.discarded .length] ++
        later.flatMap fun f => List.replicate 46 .none ++ [.ready f]

/-- R251: a payload that holds the pair once, at offset `k`, costs two LENGTH discards, and the frame is lost. -/
def Obligations.FalseSyncCostsTwoDiscards : Prop :=
  ∀ (s : State) (front back : List Byte), s.synced = true → s.saw = false → s.acc = [] →
    front.length + back.length = 43 → hasPair front = false → hasPair back = false →
    (runFeed s (front ++ [0x54, 0x2C] ++ back ++ [0x54, 0x2C])).2 =
      List.replicate (front.length + 1) .none ++ [.discarded .length] ++
      List.replicate (back.length + 1) .none ++ [.discarded .length]

/-- The FRAME row answers a next state in every state without a fault (R194): its pair is a boundary, and its payload, when it
holds no pair, is then the whole accumulator (R70, R103). -/
def Obligations.FrameRowCompletes : Prop :=
  ∀ (s : State) (p : Packet), s.fault = false → ∃ t, exec (.frame p) s = .next t ∧
    t.fault = false ∧ t.synced = true ∧ t.cfg = s.cfg ∧ t.pending = s.pending ∧ t.trace.length = s.trace.length + 47 ∧
    s.batch <+: t.batch ∧ s.cycles + 1 ≤ t.cycles ∧
    (hasPair (encodePacket p).toList = false →
      t.acc = (encodePacket p).toList ∧ t.saw = decide (p.chk = 0x54) ∧ t.cycles = s.cycles + 1)

/-- The FRAME row is the 47 steps of its bytes (R60, R81; log 9): from every state without a fault, 47 steps over the frame's
bytes reach what executing the row reaches. -/
def Obligations.FrameRowIsItsBytes : Prop :=
  ∀ (s : State) (p : Packet), s.fault = false →
    core.run 47 { s with pending := (0x54 :: 0x2C :: (encodePacket p).toList).map Transaction.rx ++ s.pending } =
      exec (.frame p) s

/-- A frame in flight is delivered (R103, R191, R250): from any state just after a boundary, 47 steps over a payload without a
pair and the closing pair return 46 times NONE and then one event: FRAME with exactly the payload's fields, or, only with
`CHECK_EN = 1` and a checksum byte that differs, DISCARD(CHECKSUM). -/
def Obligations.FrameIsDelivered : Prop :=
  ∀ (s : State) (f : RawFrame) (rest : List Transaction), s.fault = false → s.synced = true → s.saw = false → s.acc = [] →
    hasPair f.toList = false → s.pending = (f.toList ++ [0x54, 0x2C]).map Transaction.rx ++ rest →
    ∃ t e, core.run 47 s = .next t ∧ t.pending = rest ∧ t.acc = [] ∧ t.saw = false ∧ t.cycles = s.cycles + 1 ∧
      t.trace = s.trace ++ List.replicate 46 (.event .none) ++ [.event e] ∧
      ((e = .discard .checksum ∧ s.cfg.checkEn = true ∧ chkOf s.cfg.chk (checkedBytes f) ≠ f[44] ∧ t.batch = s.batch) ∨
       ((s.cfg.checkEn = false ∨ chkOf s.cfg.chk (checkedBytes f) = f[44]) ∧ t.speed = (decodePacket f).speedRaw ∧
        e = .frame (decodePacket f) (interpolate (decodePacket f)) ∧
        t.batch = s.batch ++ (interpolate (decodePacket f)).toList))

/-- R57 for `ACC_CAP` = 46, and for every greater one (log 24): the bounded accumulator errs exactly. Each byte keeps the
correspondence and gives the same event, through the whole pipeline the same returned value and the same aggregator; so every
stream from reset gives the same events whatever `ACC_CAP` is (R7, R30, R39), and whatever the buffer held (log 16). -/
def Obligations.BoundedAccumulatorRefines : Prop :=
  (∀ (cap : Nat) (h : 46 ≤ cap) (x : BoundedSync cap) (s : State) (b : Byte), Tracks x s →
    Tracks (boundedFeed h x b).1 (feed s b).1 ∧ (boundedFeed h x b).2 = (feed s b).2 ∧
    (s.fault = false → ∃ t, exec (.rx b) s = .next t ∧ Tracks (boundedStep h x b s).1 t ∧
      (boundedStep h x b s).2.trace = t.trace ∧ (boundedStep h x b s).2.batch = t.batch ∧
      (boundedStep h x b s).2.speed = t.speed ∧ (boundedStep h x b s).2.speedValid = t.speedValid ∧
      (boundedStep h x b s).2.cycles = t.cycles)) ∧
  (∀ (cfg : Config.Params) (fill : (cap : Nat) → Vector Byte cap) (bs : List Byte),
    eventsUnder cfg fill bs = (runFeed State.reset bs).2)

/-! ## Whole-machine rules -/

/-- R193, R197: for an environment that keeps its duty no step is refused, at any moment of the run. -/
def Obligations.DutifulEnvironmentNeverRefused : Prop :=
  ∀ (s : State), admissible s.fault s.pending = true →
    (∃ t, step s = .next t ∧ admissible t.fault t.pending = true) ∧ (∀ k, ∃ t, core.run k s = .next t)

/-- R20, R191: what the aggregator holds has no influence on the synchronizer or on the event of a byte. -/
def Obligations.AggregatorDoesNotInfluenceEvents : Prop :=
  ∀ (s : State) (b : Byte) (batch : List Measurement) (speed : U16) (valid : Bool) (cycles : Nat),
    s.fault = false →
    ∃ t u, exec (.rx b) s = .next t ∧
      exec (.rx b) { s with batch := batch, speed := speed, speedValid := valid, cycles := cycles } = .next u ∧
      u.acc = t.acc ∧ u.saw = t.saw ∧ u.synced = t.synced ∧ u.trace = t.trace
end

