-- ==== Sys2Proof/Laws/Payload.lean ====
section
/-! SUPPORT. The payload space: the little-endian read as a number, its inverse, and when a candidate is a RawFrame. -/

namespace Sys2Proof.Machine

theorem le16_eq_append (lo hi : Byte) : le16 lo hi = hi ++ lo := by
  apply BitVec.eq_of_getLsbD_eq
  intro k hk
  simp only [le16, BitVec.getLsbD_or, BitVec.getLsbD_shiftLeft, BitVec.getLsbD_setWidth, BitVec.getLsbD_append]
  by_cases h : k < 8
  · simp [h, hk]
  · have := BitVec.getLsbD_of_ge lo k (by omega)
    simp [h, hk, this, show k - 8 < 16 by omega]

/-- A little-endian u16 as a number: the low byte counts once, the high byte 256 times (R53). -/
theorem le16_toNat (lo hi : Byte) : (le16 lo hi).toNat = lo.toNat + 256 * hi.toNat := by
  rw [le16_eq_append, BitVec.toNat_append, Nat.shiftLeft_eq, Nat.mul_comm, ← Nat.two_pow_add_eq_or_of_lt lo.isLt]
  omega

@[simp] theorem le16_loByte_hiByte (v : U16) : le16 (loByte v) (hiByte v) = v := by
  apply BitVec.eq_of_toNat_eq
  rw [le16_toNat]
  simp only [loByte, hiByte, BitVec.extractLsb'_toNat, Nat.shiftRight_zero]
  rw [Nat.shiftRight_eq_div_pow]
  have := v.isLt
  omega

@[simp] theorem loByte_le16 (lo hi : Byte) : loByte (le16 lo hi) = lo := by
  apply BitVec.eq_of_toNat_eq
  simp only [loByte, BitVec.extractLsb'_toNat, le16_toNat, Nat.shiftRight_zero]
  have := lo.isLt
  omega

@[simp] theorem hiByte_le16 (lo hi : Byte) : hiByte (le16 lo hi) = hi := by
  apply BitVec.eq_of_toNat_eq
  simp only [hiByte, BitVec.extractLsb'_toNat, le16_toNat, Nat.shiftRight_eq_div_pow]
  have := lo.isLt
  have := hi.isLt
  omega

/-- LENCHK holds exactly of 45 bytes (R105). -/
@[simp] theorem lenchk_iff (cand : List Byte) : lenchk cand = true ↔ cand.length = 45 := by simp [lenchk]

/-- A candidate is the RawFrame `f` exactly when its bytes are those of `f` (R59). -/
theorem rawFrame?_eq_some_iff (cand : List Byte) (f : RawFrame) : rawFrame? cand = some f ↔ f.toList = cand := by
  unfold rawFrame?
  constructor
  · intro h
    split at h
    · cases h; rfl
    · cases h
  · rintro rfl
    have h : lenchk f.toList = true := by simp
    rw [dif_pos h]
    rfl

/-- A candidate is no RawFrame exactly when its length is not 45 (R105). -/
theorem rawFrame?_eq_none_iff (cand : List Byte) : rawFrame? cand = none ↔ cand.length ≠ 45 := by
  unfold rawFrame?
  split
  · rename_i h; simpa using h
  · rename_i h; simpa using h

/-- The candidate of an accumulator drops exactly the byte appended last (R59). -/
@[simp] theorem candidate_append_singleton (bs : List Byte) (b : Byte) : candidate (bs ++ [b]) = bs := by
  simp [candidate]

@[simp] theorem candidate_nil : candidate [] = [] := rfl

theorem candidate_length (acc : List Byte) : (candidate acc).length = acc.length - 1 := by
  simp [candidate]

@[simp] theorem wireBytes_length (f : RawFrame) : (wireBytes f).length = 47 := by simp [wireBytes]

@[simp] theorem encodePacket_toList (p : Packet) : (encodePacket p).toList = payloadBytes p := rfl

end Sys2Proof.Machine
end

