-- ==== Sys2Proof/Laws/State.lean ====
section
/-! SUPPORT. One lemma per field per update of the state, each true by unfolding, so that no proof unfolds a record update. -/

namespace Sys2Proof.Machine

variable (s : State)

@[simp] theorem State.emit_acc (v : Output) : (s.emit v).acc = s.acc := rfl
@[simp] theorem State.emit_saw (v : Output) : (s.emit v).saw = s.saw := rfl
@[simp] theorem State.emit_synced (v : Output) : (s.emit v).synced = s.synced := rfl
@[simp] theorem State.emit_fault (v : Output) : (s.emit v).fault = s.fault := rfl
@[simp] theorem State.emit_batch (v : Output) : (s.emit v).batch = s.batch := rfl
@[simp] theorem State.emit_speed (v : Output) : (s.emit v).speed = s.speed := rfl
@[simp] theorem State.emit_speedValid (v : Output) : (s.emit v).speedValid = s.speedValid := rfl
@[simp] theorem State.emit_cycles (v : Output) : (s.emit v).cycles = s.cycles := rfl
@[simp] theorem State.emit_cfg (v : Output) : (s.emit v).cfg = s.cfg := rfl
@[simp] theorem State.emit_pending (v : Output) : (s.emit v).pending = s.pending := rfl
@[simp] theorem State.emit_trace (v : Output) : (s.emit v).trace = s.trace ++ [v] := rfl

@[simp] theorem State.append_acc (b : Byte) (w : Bool) : (s.append b w).acc = s.acc ++ [b] := rfl
@[simp] theorem State.append_saw (b : Byte) (w : Bool) : (s.append b w).saw = w := rfl
@[simp] theorem State.append_synced (b : Byte) (w : Bool) : (s.append b w).synced = s.synced := rfl
@[simp] theorem State.append_fault (b : Byte) (w : Bool) : (s.append b w).fault = s.fault := rfl
@[simp] theorem State.append_batch (b : Byte) (w : Bool) : (s.append b w).batch = s.batch := rfl
@[simp] theorem State.append_speed (b : Byte) (w : Bool) : (s.append b w).speed = s.speed := rfl
@[simp] theorem State.append_speedValid (b : Byte) (w : Bool) : (s.append b w).speedValid = s.speedValid := rfl
@[simp] theorem State.append_cycles (b : Byte) (w : Bool) : (s.append b w).cycles = s.cycles := rfl
@[simp] theorem State.append_cfg (b : Byte) (w : Bool) : (s.append b w).cfg = s.cfg := rfl
@[simp] theorem State.append_pending (b : Byte) (w : Bool) : (s.append b w).pending = s.pending := rfl
@[simp] theorem State.append_trace (b : Byte) (w : Bool) : (s.append b w).trace = s.trace := rfl

@[simp] theorem State.closeFrame_acc : (s.closeFrame).acc = [] := rfl
@[simp] theorem State.closeFrame_saw : (s.closeFrame).saw = false := rfl
@[simp] theorem State.closeFrame_synced : (s.closeFrame).synced = s.synced := rfl
@[simp] theorem State.closeFrame_fault : (s.closeFrame).fault = s.fault := rfl
@[simp] theorem State.closeFrame_batch : (s.closeFrame).batch = s.batch := rfl
@[simp] theorem State.closeFrame_speed : (s.closeFrame).speed = s.speed := rfl
@[simp] theorem State.closeFrame_speedValid : (s.closeFrame).speedValid = s.speedValid := rfl
@[simp] theorem State.closeFrame_cycles : (s.closeFrame).cycles = s.cycles := rfl
@[simp] theorem State.closeFrame_cfg : (s.closeFrame).cfg = s.cfg := rfl
@[simp] theorem State.closeFrame_pending : (s.closeFrame).pending = s.pending := rfl
@[simp] theorem State.closeFrame_trace : (s.closeFrame).trace = s.trace := rfl

@[simp] theorem State.markSynced_acc : (s.markSynced).acc = s.acc := rfl
@[simp] theorem State.markSynced_saw : (s.markSynced).saw = s.saw := rfl
@[simp] theorem State.markSynced_synced : (s.markSynced).synced = true := rfl
@[simp] theorem State.markSynced_fault : (s.markSynced).fault = s.fault := rfl
@[simp] theorem State.markSynced_batch : (s.markSynced).batch = s.batch := rfl
@[simp] theorem State.markSynced_speed : (s.markSynced).speed = s.speed := rfl
@[simp] theorem State.markSynced_speedValid : (s.markSynced).speedValid = s.speedValid := rfl
@[simp] theorem State.markSynced_cycles : (s.markSynced).cycles = s.cycles := rfl
@[simp] theorem State.markSynced_cfg : (s.markSynced).cfg = s.cfg := rfl
@[simp] theorem State.markSynced_pending : (s.markSynced).pending = s.pending := rfl
@[simp] theorem State.markSynced_trace : (s.markSynced).trace = s.trace := rfl

@[simp] theorem State.tick_acc : (s.tick).acc = s.acc := rfl
@[simp] theorem State.tick_saw : (s.tick).saw = s.saw := rfl
@[simp] theorem State.tick_synced : (s.tick).synced = s.synced := rfl
@[simp] theorem State.tick_fault : (s.tick).fault = s.fault := rfl
@[simp] theorem State.tick_batch : (s.tick).batch = s.batch := rfl
@[simp] theorem State.tick_speed : (s.tick).speed = s.speed := rfl
@[simp] theorem State.tick_speedValid : (s.tick).speedValid = s.speedValid := rfl
@[simp] theorem State.tick_cycles : (s.tick).cycles = s.cycles + 1 := rfl
@[simp] theorem State.tick_cfg : (s.tick).cfg = s.cfg := rfl
@[simp] theorem State.tick_pending : (s.tick).pending = s.pending := rfl
@[simp] theorem State.tick_trace : (s.tick).trace = s.trace := rfl

@[simp] theorem State.accept_acc (m : Measurements) (v : U16) : (s.accept m v).acc = s.acc := rfl
@[simp] theorem State.accept_saw (m : Measurements) (v : U16) : (s.accept m v).saw = s.saw := rfl
@[simp] theorem State.accept_synced (m : Measurements) (v : U16) : (s.accept m v).synced = s.synced := rfl
@[simp] theorem State.accept_fault (m : Measurements) (v : U16) : (s.accept m v).fault = s.fault := rfl
@[simp] theorem State.accept_batch (m : Measurements) (v : U16) : (s.accept m v).batch = s.batch ++ m.toList := rfl
@[simp] theorem State.accept_speed (m : Measurements) (v : U16) : (s.accept m v).speed = v := rfl
@[simp] theorem State.accept_speedValid (m : Measurements) (v : U16) : (s.accept m v).speedValid = true := rfl
@[simp] theorem State.accept_cycles (m : Measurements) (v : U16) : (s.accept m v).cycles = s.cycles + 1 := rfl
@[simp] theorem State.accept_cfg (m : Measurements) (v : U16) : (s.accept m v).cfg = s.cfg := rfl
@[simp] theorem State.accept_pending (m : Measurements) (v : U16) : (s.accept m v).pending = s.pending := rfl
@[simp] theorem State.accept_trace (m : Measurements) (v : U16) : (s.accept m v).trace = s.trace := rfl

@[simp] theorem State.clearBatch_acc : (s.clearBatch).acc = s.acc := rfl
@[simp] theorem State.clearBatch_saw : (s.clearBatch).saw = s.saw := rfl
@[simp] theorem State.clearBatch_synced : (s.clearBatch).synced = s.synced := rfl
@[simp] theorem State.clearBatch_fault : (s.clearBatch).fault = s.fault := rfl
@[simp] theorem State.clearBatch_batch : (s.clearBatch).batch = [] := rfl
@[simp] theorem State.clearBatch_speed : (s.clearBatch).speed = s.speed := rfl
@[simp] theorem State.clearBatch_speedValid : (s.clearBatch).speedValid = s.speedValid := rfl
@[simp] theorem State.clearBatch_cycles : (s.clearBatch).cycles = 0 := rfl
@[simp] theorem State.clearBatch_cfg : (s.clearBatch).cfg = s.cfg := rfl
@[simp] theorem State.clearBatch_pending : (s.clearBatch).pending = s.pending := rfl
@[simp] theorem State.clearBatch_trace : (s.clearBatch).trace = s.trace := rfl

@[simp] theorem State.resetElements_acc : (s.resetElements).acc = [] := rfl
@[simp] theorem State.resetElements_saw : (s.resetElements).saw = false := rfl
@[simp] theorem State.resetElements_synced : (s.resetElements).synced = false := rfl
@[simp] theorem State.resetElements_fault : (s.resetElements).fault = false := rfl
@[simp] theorem State.resetElements_batch : (s.resetElements).batch = [] := rfl
@[simp] theorem State.resetElements_speed : (s.resetElements).speed = 0 := rfl
@[simp] theorem State.resetElements_speedValid : (s.resetElements).speedValid = false := rfl
@[simp] theorem State.resetElements_cycles : (s.resetElements).cycles = 0 := rfl
@[simp] theorem State.resetElements_cfg : (s.resetElements).cfg = s.cfg := rfl
@[simp] theorem State.resetElements_pending : (s.resetElements).pending = s.pending := rfl
@[simp] theorem State.resetElements_trace : (s.resetElements).trace = s.trace := rfl

@[simp] theorem State.raiseDiscard_acc (c : Cause) : (s.raiseDiscard c).acc = s.acc := rfl
@[simp] theorem State.raiseDiscard_saw (c : Cause) : (s.raiseDiscard c).saw = s.saw := rfl
@[simp] theorem State.raiseDiscard_synced (c : Cause) : (s.raiseDiscard c).synced = s.synced := rfl
@[simp] theorem State.raiseDiscard_fault (c : Cause) : (s.raiseDiscard c).fault = s.fault := rfl
@[simp] theorem State.raiseDiscard_batch (c : Cause) : (s.raiseDiscard c).batch = s.batch := rfl
@[simp] theorem State.raiseDiscard_speed (c : Cause) : (s.raiseDiscard c).speed = s.speed := rfl
@[simp] theorem State.raiseDiscard_speedValid (c : Cause) : (s.raiseDiscard c).speedValid = s.speedValid := rfl
@[simp] theorem State.raiseDiscard_cycles (c : Cause) : (s.raiseDiscard c).cycles = s.cycles + 1 := rfl
@[simp] theorem State.raiseDiscard_cfg (c : Cause) : (s.raiseDiscard c).cfg = s.cfg := rfl
@[simp] theorem State.raiseDiscard_pending (c : Cause) : (s.raiseDiscard c).pending = s.pending := rfl
@[simp] theorem State.raiseDiscard_trace (c : Cause) : (s.raiseDiscard c).trace = s.trace ++ [.event (.discard c)] := rfl

@[simp] theorem State.raiseFatal_acc : (s.raiseFatal).acc = s.acc := rfl
@[simp] theorem State.raiseFatal_saw : (s.raiseFatal).saw = s.saw := rfl
@[simp] theorem State.raiseFatal_synced : (s.raiseFatal).synced = s.synced := rfl
@[simp] theorem State.raiseFatal_fault : (s.raiseFatal).fault = true := rfl
@[simp] theorem State.raiseFatal_batch : (s.raiseFatal).batch = s.batch := rfl
@[simp] theorem State.raiseFatal_speed : (s.raiseFatal).speed = s.speed := rfl
@[simp] theorem State.raiseFatal_speedValid : (s.raiseFatal).speedValid = s.speedValid := rfl
@[simp] theorem State.raiseFatal_cycles : (s.raiseFatal).cycles = s.cycles := rfl
@[simp] theorem State.raiseFatal_cfg : (s.raiseFatal).cfg = s.cfg := rfl
@[simp] theorem State.raiseFatal_pending : (s.raiseFatal).pending = s.pending := rfl
@[simp] theorem State.raiseFatal_trace : (s.raiseFatal).trace = s.trace ++ [.event (.fatal .srcFail)] := rfl

/-- Two states are equal when every field is. -/
theorem State.ext_fields {s t : State} (h0 : s.acc = t.acc) (h1 : s.saw = t.saw) (h2 : s.synced = t.synced) (h3 : s.fault = t.fault) (h4 : s.batch = t.batch) (h5 : s.speed = t.speed) (h6 : s.speedValid = t.speedValid) (h7 : s.cycles = t.cycles) (h8 : s.cfg = t.cfg) (h9 : s.pending = t.pending) (h10 : s.trace = t.trace) : s = t := by
  cases s; cases t; simp_all

end Sys2Proof.Machine
end

