-- ==== Sys2Proof/Laws/Synchronizer.lean ====
section
/-! SUPPORT. Everything the synchronizer can do with one byte. -/

namespace Sys2Proof.Machine

theorem closesPair_iff (saw : Bool) (b : Byte) : closesPair saw b = true ↔ saw = true ∧ b = Config.ver := by
  simp [closesPair]

theorem boundary_unsynced (s : State) (h : s.synced = false) :
    boundary s = (s.closeFrame.markSynced, .discarded .unsync) := by simp [boundary, h]

theorem boundary_ready (s : State) (h : s.synced = true) (f : RawFrame) (hf : f.toList = candidate s.acc) :
    boundary s = (s.closeFrame, .ready f) := by
  simp [boundary, h, (rawFrame?_eq_some_iff _ f).2 hf]

theorem boundary_length (s : State) (h : s.synced = true) (hl : (candidate s.acc).length ≠ 45) :
    boundary s = (s.closeFrame, .discarded .length) := by
  simp [boundary, h, (rawFrame?_eq_none_iff _).2 hl]

/-- The three outcomes of a boundary, in the order of R217. -/
theorem boundary_cases (s : State) :
    (s.synced = false ∧ boundary s = (s.closeFrame.markSynced, .discarded .unsync)) ∨
    (s.synced = true ∧ (candidate s.acc).length ≠ 45 ∧ boundary s = (s.closeFrame, .discarded .length)) ∨
    (s.synced = true ∧ ∃ f : RawFrame, f.toList = candidate s.acc ∧ boundary s = (s.closeFrame, .ready f)) := by
  cases h : s.synced
  · exact .inl ⟨rfl, boundary_unsynced s h⟩
  · by_cases hl : (candidate s.acc).length = 45
    · refine .inr (.inr ⟨rfl, ⟨(candidate s.acc).toArray, by simpa using hl⟩, rfl, boundary_ready s h _ rfl⟩)
    · exact .inr (.inl ⟨rfl, hl, boundary_length s h hl⟩)

theorem feed_append (s : State) (b : Byte) (h : closesPair s.saw b = false) :
    feed s b = (s.append b (sawAfter b), .none) := by simp [feed, h]

theorem feed_boundary (s : State) (b : Byte) (h : closesPair s.saw b = true) : feed s b = boundary s := by
  simp [feed, h]

/-- A boundary changes only the three elements of the synchronizer (R20, R103). -/
theorem boundary_frame (s : State) :
    (boundary s).1.acc = [] ∧ (boundary s).1.saw = false ∧ (boundary s).1.synced = true ∧
    (boundary s).1.fault = s.fault ∧ (boundary s).1.batch = s.batch ∧ (boundary s).1.speed = s.speed ∧
    (boundary s).1.speedValid = s.speedValid ∧ (boundary s).1.cycles = s.cycles ∧ (boundary s).1.cfg = s.cfg ∧
    (boundary s).1.pending = s.pending ∧ (boundary s).1.trace = s.trace := by
  rcases boundary_cases s with ⟨_, h⟩ | ⟨hs, _, h⟩ | ⟨hs, f, _, h⟩ <;> simp [h] <;> assumption

/-- `FEED` reads and writes only `acc`, `saw` and `synced` (R20). -/
theorem feed_frame (s : State) (b : Byte) :
    (feed s b).1.fault = s.fault ∧ (feed s b).1.batch = s.batch ∧ (feed s b).1.speed = s.speed ∧
    (feed s b).1.speedValid = s.speedValid ∧ (feed s b).1.cycles = s.cycles ∧ (feed s b).1.cfg = s.cfg ∧
    (feed s b).1.pending = s.pending ∧ (feed s b).1.trace = s.trace := by
  cases h : closesPair s.saw b
  · simp [feed_append s b h]
  · rw [feed_boundary s b h]
    exact (boundary_frame s).2.2.2

end Sys2Proof.Machine
end

