-- ==== Sys2Proof/Laws/Bounded.lean ====
section
/-! SUPPORT. What each operation of the bounded synchronizer leaves, field by field, and what its `FEED` can do. -/

namespace Sys2Proof.Machine

variable {cap : Nat} (x : BoundedSync cap) (b : Byte)

@[simp] theorem BoundedSync.append_n : (x.append b).n = min (x.n + 1) (cap + 1) := rfl
@[simp] theorem BoundedSync.append_saw : (x.append b).saw = sawAfter b := rfl
@[simp] theorem BoundedSync.append_synced : (x.append b).synced = x.synced := rfl
@[simp] theorem BoundedSync.close_buf : x.close.buf = x.buf := rfl
@[simp] theorem BoundedSync.close_n : x.close.n = 0 := rfl
@[simp] theorem BoundedSync.close_saw : x.close.saw = false := rfl
@[simp] theorem BoundedSync.close_synced : x.close.synced = true := rfl

/-- A byte of the buffer after an append: the new one at the counter, every other as before (R57). -/
theorem BoundedSync.append_buf_getElem? (i : Nat) :
    (x.append b).buf.toList[i]? = if i = x.n ∧ x.n < cap then some b else x.buf.toList[i]? := by
  unfold BoundedSync.append
  by_cases h : x.n < cap
  · simp only [h, dite_true, Vector.toList_set, List.getElem?_set, Vector.length_toList, and_true]
    by_cases hi : i = x.n
    · simp [hi]
    · simp [hi, Ne.symm hi]
  · simp [h]

theorem boundedFeed_append (h : 46 ≤ cap) (hc : closesPair x.saw b = false) :
    boundedFeed h x b = (x.append b, .none) := by simp [boundedFeed, hc]

/-- A boundary of the bounded synchronizer closes it, and its event is one of three (R57, R103). -/
theorem boundedFeed_boundary (h : 46 ≤ cap) (hc : closesPair x.saw b = true) :
    boundedFeed h x b = (x.close, if x.synced then (if x.n = 46 then .ready (x.frame h) else .discarded .length)
      else .discarded .unsync) := by
  cases hs : x.synced <;> by_cases hn : x.n = 46 <;> simp [boundedFeed, hc, hs, hn]

end Sys2Proof.Machine
end

