-- ==== Sys2Proof/Laws/Checksum.lean ====
section
/-! SUPPORT. When CHKSUM passes (R162), and the checked bytes as a list (R161). -/

namespace Sys2Proof.Machine

theorem chksumPasses_iff (cfg : Config.Params) (f : RawFrame) :
    chksumPasses cfg f = true ↔ cfg.checkEn = false ∨ chkOf cfg.chk (checkedBytes f) = f[44] := by
  unfold chksumPasses
  cases cfg.checkEn <;> simp [chkField, memRead1]

theorem checkedBytes_toList (f : RawFrame) : (checkedBytes f).toList = f.toList.take 44 := by
  apply List.ext_getElem
  · simp
  · intro i h1 h2
    simp [checkedBytes, memRead1]

end Sys2Proof.Machine
end

