-- ==== Sys2Proof/Laws/Decode.lean ====
section
/-! SUPPORT. The decoder case by case: the rows of the byte-class table (R72) and the wire frame (R70). -/

namespace Sys2Proof

open Sys2Proof.Machine

@[simp] theorem decodeByte_hdr (saw : Bool) : decodeByte saw Config.hdr = .rxHdr := rfl

@[simp] theorem decodeByte_ver_seeking : decodeByte false Config.ver = .rxVerSeeking := rfl

@[simp] theorem decodeByte_ver_boundary : decodeByte true Config.ver = .rxVerBoundary := rfl

theorem decodeByte_data (saw : Bool) (b : Byte) (h1 : b ≠ Config.hdr) (h2 : b ≠ Config.ver) :
    decodeByte saw b = .rxDat b := by
  unfold decodeByte
  rw [if_neg h1, if_neg h2]

/-- Every byte is one of the four rows. -/
theorem decodeByte_cases (saw : Bool) (b : Byte) :
    (b = Config.hdr ∧ decodeByte saw b = .rxHdr) ∨
    (b = Config.ver ∧ saw = false ∧ decodeByte saw b = .rxVerSeeking) ∨
    (b = Config.ver ∧ saw = true ∧ decodeByte saw b = .rxVerBoundary) ∨
    (b ≠ Config.hdr ∧ b ≠ Config.ver ∧ decodeByte saw b = .rxDat b) := by
  by_cases h1 : b = Config.hdr
  · subst h1; exact .inl ⟨rfl, rfl⟩
  · by_cases h2 : b = Config.ver
    · subst h2
      cases saw
      · exact .inr (.inl ⟨rfl, rfl, rfl⟩)
      · exact .inr (.inr (.inl ⟨rfl, rfl, rfl⟩))
    · exact .inr (.inr (.inr ⟨h1, h2, decodeByte_data saw b h1 h2⟩))

theorem decode_singleton (saw : Bool) (b : Byte) : decode saw [b] = .ok (decodeByte saw b) := rfl

/-- The wire bytes of a RawFrame decode to FRAME of its packet, in either state of `saw`. -/
theorem decode_wireBytes (saw : Bool) (f : RawFrame) : decode saw (wireBytes f) = .ok (.frame (decodePacket f)) := by
  show decodeWire (Config.hdr :: Config.ver :: f.toList) = _
  simp only [decodeWire]
  rw [(rawFrame?_eq_some_iff _ f).2 rfl]
  simp

end Sys2Proof
end

