-- ==== Sys2Proof/Laws/Interpolator.lean ====
section
/-! SUPPORT. The integers of the interpolator: the span's two branches, and the bearing as a remainder. -/

namespace Sys2Proof.Machine

theorem spanOf_of_lt (fsa lsa : U16) (h : fsa.toNat < lsa.toNat) : spanOf fsa lsa = lsa.toNat - fsa.toNat := by
  simp only [spanOf]; rw [if_pos (by omega)]

theorem spanOf_of_ge (fsa lsa : U16) (h : lsa.toNat ≤ fsa.toNat) :
    spanOf fsa lsa = (lsa.toNat : Int) - fsa.toNat + 36000 := by
  simp only [spanOf]; rw [if_neg (by omega)]; rfl

theorem angOf_cast (fsa : U16) (span : Int) (i : Fin 12) :
    (angOf fsa span i : Int) = (span * i.val + 12 * fsa.toNat) % 432000 := by
  simp only [angOf, angNumerator, Config.interpDiv, Config.angUnitsPerTurn]
  rw [Int.toNat_of_nonneg (Int.emod_nonneg _ (by decide))]
  rfl

theorem angOf_lt (fsa : U16) (span : Int) (i : Fin 12) : angOf fsa span i < 432000 := by
  have h := angOf_cast fsa span i
  have := Int.emod_lt_of_pos (span * i.val + 12 * fsa.toNat) (show (0 : Int) < 432000 by decide)
  omega

@[simp] theorem pairOf_ang (p : Packet) (i : Fin 12) :
    (pairOf p i).ang = angOf p.fsaRaw (spanOf p.fsaRaw p.lsaRaw) i := rfl

@[simp] theorem pairOf_distRaw (p : Packet) (i : Fin 12) : (pairOf p i).distRaw = p.samples[i].distRaw := rfl

@[simp] theorem pairOf_conf (p : Packet) (i : Fin 12) : (pairOf p i).conf = p.samples[i].conf := rfl

/-- Every Measurement of a packet is one of the twelve pairs. -/
theorem mem_interpolate (p : Packet) (m : Measurement) :
    m ∈ (interpolate p).toList ↔ ∃ i, pairOf p i = m := by
  rw [Vector.mem_toList_iff, interpolate, Vector.mem_ofFn]

theorem interpolate_toList_length (p : Packet) : (interpolate p).toList.length = 12 := by simp

end Sys2Proof.Machine
end

