-- ==== Sys2Proof/Laws/Memory.lean ====
section
/-! SUPPORT. The accumulator space: its listing is canonical in every state, hence after every operation, and an append adds
exactly the byte at address `len(acc)` (R50, R51). -/

namespace Sys2Proof.Machine

theorem State.accCells_addresses (s : State) : s.accCells.map Prod.fst = List.range s.acc.length := by
  simp only [State.accCells, List.map_map]
  show s.acc.zipIdx.map Prod.snd = _
  rw [List.zipIdx_map_snd, List.range_eq_range']

/-- Every operation answers a state, and the listing of every state is in canonical form. -/
theorem State.accCells_wf (s : State) : Memory.wf s.accCells = true := by
  simp only [Memory.wf, decide_eq_true_eq, s.accCells_addresses]
  exact List.pairwise_lt_range

theorem State.reset_accCells_wf : Memory.wf State.reset.accCells = true := State.reset.accCells_wf

/-- A read after an append gives the byte appended (R51). -/
theorem State.accByte_append_same (s : State) (b : Byte) (w : Bool) :
    (s.append b w).accByte s.acc.length = some b := by
  simp [State.accByte]

/-- An append leaves every other address as it was (R51). -/
theorem State.accByte_append_other (s : State) (b : Byte) (w : Bool) (a : Nat) (h : a ≠ s.acc.length) :
    (s.append b w).accByte a = s.accByte a := by
  simp only [State.accByte, State.append_acc]
  rcases Nat.lt_or_gt_of_ne h with h | h
  · rw [List.getElem?_append_left h]
  · rw [List.getElem?_eq_none (by simp; omega), List.getElem?_eq_none (by omega)]

/-- A boundary leaves no address (R103). -/
theorem State.accByte_closeFrame (s : State) (a : Nat) : s.closeFrame.accByte a = none := by
  simp [State.accByte]

end Sys2Proof.Machine
end

