-- ==== Sys2Proof/Laws/PerInstr.lean ====
section
/-! SUPPORT. Per-instruction facts about the encoding: which instructions have a bit pattern, and its length. -/

namespace Sys2Proof.Laws

/-- The formats of the opcode table: one byte (R72), the 47-byte wire frame (R70), and no encoding (R82). -/
def encodedLength : Instr → Option Nat
  | .rx _ => some 1
  | .rxHdr => some 1
  | .rxVerSeeking => some 1
  | .rxVerBoundary => some 1
  | .rxDat _ => some 1
  | .frame _ => some 47
  | .lenchk _ => none
  | .chksum _ => none
  | .decode _ => none
  | .decSpeed _ => none
  | .decFsa _ => none
  | .decDist _ _ => none
  | .decConf _ _ => none
  | .decLsa _ => none
  | .decTs _ => none
  | .decChk _ => none
  | .interp _ => none
  | .interpSpan _ _ => none
  | .interpAng _ _ _ => none
  | .interpPair _ _ => none
  | .aggAccept _ _ => none
  | .aggTick => none
  | .srcFail => none
  | .reset => none
  | .shouldFlush => none
  | .flush => none

/-- The encoding has the length of the instruction's format, and there is none for the formats P45 and CMD. -/
def EncodedLength.Statement (i : Instr) : Prop := (encode i).map List.length = encodedLength i

theorem EncodedLength.rx (b : Byte) : EncodedLength.Statement (.rx b) := rfl
theorem EncodedLength.rxHdr : EncodedLength.Statement .rxHdr := rfl
theorem EncodedLength.rxVerSeeking : EncodedLength.Statement .rxVerSeeking := rfl
theorem EncodedLength.rxVerBoundary : EncodedLength.Statement .rxVerBoundary := rfl
theorem EncodedLength.rxDat (b : Byte) : EncodedLength.Statement (.rxDat b) := rfl
theorem EncodedLength.frame (p : Machine.Packet) : EncodedLength.Statement (.frame p) := by simp [EncodedLength.Statement, encode, encodedLength, Machine.wireBytes, Machine.encodePacket, Machine.payloadBytes_length]
theorem EncodedLength.lenchk (cand : List Byte) : EncodedLength.Statement (.lenchk cand) := rfl
theorem EncodedLength.chksum (f : Machine.RawFrame) : EncodedLength.Statement (.chksum f) := rfl
theorem EncodedLength.decode (f : Machine.RawFrame) : EncodedLength.Statement (.decode f) := rfl
theorem EncodedLength.decSpeed (f : Machine.RawFrame) : EncodedLength.Statement (.decSpeed f) := rfl
theorem EncodedLength.decFsa (f : Machine.RawFrame) : EncodedLength.Statement (.decFsa f) := rfl
theorem EncodedLength.decDist (f : Machine.RawFrame) (k : Fin 12) : EncodedLength.Statement (.decDist f k) := rfl
theorem EncodedLength.decConf (f : Machine.RawFrame) (k : Fin 12) : EncodedLength.Statement (.decConf f k) := rfl
theorem EncodedLength.decLsa (f : Machine.RawFrame) : EncodedLength.Statement (.decLsa f) := rfl
theorem EncodedLength.decTs (f : Machine.RawFrame) : EncodedLength.Statement (.decTs f) := rfl
theorem EncodedLength.decChk (f : Machine.RawFrame) : EncodedLength.Statement (.decChk f) := rfl
theorem EncodedLength.interp (p : Machine.Packet) : EncodedLength.Statement (.interp p) := rfl
theorem EncodedLength.interpSpan (fsa lsa : U16) : EncodedLength.Statement (.interpSpan fsa lsa) := rfl
theorem EncodedLength.interpAng (fsa : U16) (span : Int) (k : Fin 12) : EncodedLength.Statement (.interpAng fsa span k) := rfl
theorem EncodedLength.interpPair (p : Machine.Packet) (k : Fin 12) : EncodedLength.Statement (.interpPair p k) := rfl
theorem EncodedLength.aggAccept (m : Machine.Measurements) (v : U16) : EncodedLength.Statement (.aggAccept m v) := rfl
theorem EncodedLength.aggTick : EncodedLength.Statement .aggTick := rfl
theorem EncodedLength.srcFail : EncodedLength.Statement .srcFail := rfl
theorem EncodedLength.reset : EncodedLength.Statement .reset := rfl
theorem EncodedLength.shouldFlush : EncodedLength.Statement .shouldFlush := rfl
theorem EncodedLength.flush : EncodedLength.Statement .flush := rfl

end Sys2Proof.Laws
end

