-- ==== Sys2Proof/Laws/Pipeline.lean ====
section
/-! SUPPORT. The stages behind the synchronizer, the transactions of the Byte Source, and what one step can be. -/

namespace Sys2Proof.Machine

@[simp] theorem resolve_none (s : State) : resolve s .none = s.emit (.event .none) := rfl

@[simp] theorem resolve_discarded (s : State) (c : Cause) : resolve s (.discarded c) = s.raiseDiscard c := rfl

theorem resolve_pass (s : State) (f : RawFrame) (h : chksumPasses s.cfg f = true) :
    resolve s (.ready f) = (s.accept (interpolate (decodePacket f)) (decodePacket f).speedRaw).emit
      (.event (.frame (decodePacket f) (interpolate (decodePacket f)))) := by simp [resolve, h]

theorem resolve_fail (s : State) (f : RawFrame) (h : chksumPasses s.cfg f = false) :
    resolve s (.ready f) = s.raiseDiscard .checksum := by simp [resolve, h]

/-- The stages behind the synchronizer leave `acc`, `saw`, `synced`, `fault`, the configuration and the pending transactions,
and return exactly one event (R191). -/
theorem resolve_frame (s : State) (e : FrameEvent) :
    (resolve s e).acc = s.acc ∧ (resolve s e).saw = s.saw ∧ (resolve s e).synced = s.synced ∧
    (resolve s e).fault = s.fault ∧ (resolve s e).cfg = s.cfg ∧ (resolve s e).pending = s.pending ∧
    ∃ v, (resolve s e).trace = s.trace ++ [.event v] := by
  rcases e with _ | f | c
  · simp
  · cases h : chksumPasses s.cfg f
    · simp [resolve_fail s f h]
    · simp [resolve_pass s f h]
  · simp

theorem whileHealthy_of_fault (s : State) (k : State → Result) (h : s.fault = true) :
    whileHealthy s k = .refused .sourceFailed := by simp [whileHealthy, h]

theorem whileHealthy_of_healthy (s : State) (k : State → Result) (h : s.fault = false) :
    whileHealthy s k = k s := by simp [whileHealthy, h]

/-- `RX` answers a next state exactly while the Byte Source has not failed, and then the one of R191. -/
theorem execRx_eq_next_iff (b : Byte) (s t : State) :
    execRx b s = .next t ↔ s.fault = false ∧ t = resolve (feed s b).1 (feed s b).2 := by
  unfold execRx whileHealthy
  cases h : s.fault <;> simp [eq_comm]

/-- Everything `RX` can answer a next state with: a byte appended, or a boundary with one of its four outcomes, in the order
of R217. -/
theorem execRx_cases (b : Byte) (s t : State) (h : execRx b s = .next t) : s.fault = false ∧
    ((closesPair s.saw b = false ∧ t = (s.append b (sawAfter b)).emit (.event .none)) ∨
     (closesPair s.saw b = true ∧ s.synced = false ∧ t = s.closeFrame.markSynced.raiseDiscard .unsync) ∨
     (closesPair s.saw b = true ∧ s.synced = true ∧ (candidate s.acc).length ≠ 45 ∧
        t = s.closeFrame.raiseDiscard .length) ∨
     (closesPair s.saw b = true ∧ s.synced = true ∧ ∃ f : RawFrame, f.toList = candidate s.acc ∧
        chksumPasses s.cfg f = false ∧ t = s.closeFrame.raiseDiscard .checksum) ∨
     (closesPair s.saw b = true ∧ s.synced = true ∧ ∃ f : RawFrame, f.toList = candidate s.acc ∧
        chksumPasses s.cfg f = true ∧
        t = (s.closeFrame.accept (interpolate (decodePacket f)) (decodePacket f).speedRaw).emit
          (.event (.frame (decodePacket f) (interpolate (decodePacket f)))))) := by
  obtain ⟨hf, rfl⟩ := (execRx_eq_next_iff b s t).1 h
  refine ⟨hf, ?_⟩
  cases hc : closesPair s.saw b
  · exact .inl ⟨rfl, by rw [feed_append s b hc]; rfl⟩
  · rw [feed_boundary s b hc]
    rcases boundary_cases s with ⟨hs, e⟩ | ⟨hs, hl, e⟩ | ⟨hs, f, hl, e⟩ <;> rw [e]
    · exact .inr (.inl ⟨rfl, hs, rfl⟩)
    · exact .inr (.inr (.inl ⟨rfl, hs, hl, rfl⟩))
    · cases hp : chksumPasses s.cfg f
      · exact .inr (.inr (.inr (.inl ⟨rfl, hs, f, hl, hp, resolve_fail _ f hp⟩)))
      · exact .inr (.inr (.inr (.inr ⟨rfl, hs, f, hl, hp, resolve_pass _ f hp⟩)))

/-- What a chunk of bytes can answer: a next state reached byte by byte. -/
theorem receive_cons (b : Byte) (bs : List Byte) (s t : State) (h : execRx b s = .next t) :
    receive (b :: bs) s = receive bs t := by simp [receive, h]

/-- A chunk followed by another is the two in order. -/
theorem receive_append (as bs : List Byte) (s t : State) (h : receive as s = .next t) :
    receive (as ++ bs) s = receive bs t := by
  induction as generalizing s with
  | nil => cases h; rfl
  | cons a as ih =>
    simp only [receive, List.cons_append] at h ⊢
    split at h
    · exact ih _ h
    · cases h
    · cases h

/-- A predicate that every received byte keeps holds after a chunk. -/
theorem receive_invariant (P : State → Prop) (hP : ∀ b s t, P s → execRx b s = .next t → P t)
    (bs : List Byte) (s t : State) (hs : P s) (h : receive bs s = .next t) : P t := by
  induction bs generalizing s with
  | nil => cases h; exact hs
  | cons b bs ih =>
    simp only [receive] at h
    split at h
    · rename_i u hu
      exact ih u (hP b s u hs hu) h
    · cases h
    · cases h

theorem fetch_nil (s : State) (h : s.pending = []) : fetch s = none := by simp [fetch, h]

theorem fetch_cons (s : State) (x : Transaction) (rest : List Transaction) (h : s.pending = x :: rest) :
    fetch s = some (decodeTransaction s.saw x, { s with pending := rest }) := by simp [fetch, h]

/-- What one step can be: nothing pending and nothing done, or the instruction of the next transaction. -/
theorem step_cases (s : State) :
    (s.pending = [] ∧ step s = .next s) ∨
    (∃ x rest, s.pending = x :: rest ∧
      step s = exec (decodeTransaction s.saw x) { s with pending := rest }) := by
  cases h : s.pending with
  | nil => exact .inl ⟨rfl, by simp [step, fetch_nil s h]⟩
  | cons x rest => exact .inr ⟨x, rest, rfl, by simp [step, fetch_cons s x rest h]⟩

end Sys2Proof.Machine
end

