-- ==== Sys2Proof/Laws/Safety.lean ====
section
/-! SUPPORT. Lemmas about the terms of Safety.lean. -/

namespace Sys2Proof.Safety

open Sys2Proof.Machine

/-- A pair that one more byte completes ends in that byte (R107). -/
theorem hasPair_append_singleton (l : List Byte) (b : Byte) :
    hasPair (l ++ [b]) = (hasPair l || (decide (l.getLast? = some Config.hdr) && (b == Config.ver))) := by
  induction l with
  | nil => simp [hasPair]
  | cons a l ih =>
    cases l with
    | nil => simp [hasPair]; rfl
    | cons c l =>
      simp only [List.cons_append] at ih ⊢
      simp only [hasPair]
      rw [ih, Bool.or_assoc]
      simp

/-- A front of bytes without the pair has no pair. -/
theorem hasPair_of_append (l m : List Byte) (h : hasPair (l ++ m) = false) : hasPair l = false := by
  induction m using List.reverseRecOn with
  | nil => simpa using h
  | append_singleton m b ih =>
    rw [← List.append_assoc, hasPair_append_singleton] at h
    exact ih (Bool.or_eq_false_iff.1 h).1

@[simp] theorem reported_none (cfg : Config.Params) : reported cfg .none = .none := rfl

@[simp] theorem reported_discarded (cfg : Config.Params) (c : Cause) : reported cfg (.discarded c) = .discard c := rfl

@[simp] theorem released_none : released .none = [] := rfl

@[simp] theorem released_frame (p : Packet) (m : Measurements) : released (.frame p m) = m.toList := rfl

@[simp] theorem released_discard (c : Cause) : released (.discard c) = [] := rfl

/-- The stages behind the synchronizer, whole but for the speed: they return the reported event, count a cycle unless nothing
happened, and add what the event releases to the batch (R191). -/
theorem resolve_reported (s : State) (e : FrameEvent) :
    (resolve s e).trace = s.trace ++ [.event (reported s.cfg e)] ∧
    (resolve s e).batch = s.batch ++ released (reported s.cfg e) ∧
    (resolve s e).cycles = s.cycles + if e = .none then 0 else 1 := by
  rcases e with _ | f | c
  · simp [resolve]
  · cases h : chksumPasses s.cfg f <;> simp [resolve, reported, h]
  · simp [resolve]

end Sys2Proof.Safety
end

