-- ==== Sys2Proof/Tests/Slice0.lean ====
section
/-! SUPPORT. Tests on the spec's own vectors (spec/95_test_vectors.md), one step each, and for every obligation with hypotheses
a witness that meets them. -/

namespace Sys2Proof.Tests

open Sys2Proof.Machine Sys2Proof.Safety

/-! ## Helpers -/

def nextOf : Result → Option State
  | .next s => some s
  | .fault _ => none
  | .refused _ => none

def refusalOf : Result → Option Refusal
  | .next _ => none
  | .fault _ => none
  | .refused r => some r

/-- The last value returned when an instruction runs first after reset. -/
def returned (i : Instr) : Option Output := (nextOf (exec i State.reset)).bind fun t => t.trace.getLast?

/-- After a first boundary, with nothing received since. -/
def fresh : State := { State.reset with synced := true }

/-- About to close the candidate `bs`: its bytes and the `HDR` of the closing pair have been received. -/
def closing (bs : List Byte) : State := { fresh with acc := bs ++ [0x54], saw := true }

/-- The Byte Source has failed. -/
def failed : State := { State.reset with fault := true }

/-- The payload of frame A. -/
def payloadA : RawFrame :=
  #v[0xE8, 0x03, 0x00, 0x00, 0x64, 0x00, 0x80, 0x64, 0x00, 0x80, 0x64, 0x00, 0x80, 0x64, 0x00, 0x80, 0x64, 0x00,
  0x80, 0x64, 0x00, 0x80, 0x64, 0x00, 0x80, 0x64, 0x00, 0x80, 0x64, 0x00, 0x80, 0x64, 0x00, 0x80, 0x64, 0x00,
  0x80, 0x64, 0x00, 0x80, 0x30, 0x75, 0x10, 0x27, 0x50]

/-- The payload of frame B. -/
def payloadB : RawFrame :=
  #v[0xA0, 0x8C, 0xB8, 0x88, 0xC8, 0x00, 0x00, 0xC9, 0x00, 0x0A, 0xCA, 0x00, 0x14, 0xCB, 0x00, 0x1E, 0xCC, 0x00,
  0x28, 0xCD, 0x00, 0x32, 0xCE, 0x00, 0x3C, 0xCF, 0x00, 0x46, 0xD0, 0x00, 0x50, 0xD1, 0x00, 0x5A, 0xD2, 0x00,
  0x64, 0xD3, 0x00, 0x6E, 0xE8, 0x03, 0x04, 0x29, 0x4B]

/-- The payload of frame D. -/
def payloadD : RawFrame :=
  #v[0xE8, 0x03, 0x00, 0x00, 0x64, 0x00, 0x80, 0x64, 0x00, 0x80, 0x64, 0x00, 0x80, 0x64, 0x00, 0x80, 0x64, 0x00,
  0x80, 0x64, 0x00, 0x80, 0x64, 0x00, 0x80, 0x64, 0x00, 0x80, 0x64, 0x00, 0x80, 0x64, 0x00, 0x80, 0x64, 0x00,
  0x80, 0x64, 0x00, 0x80, 0x2C, 0x01, 0x10, 0x27, 0x00]

/-- Frame A by its fields. -/
def packetA : Packet := ⟨1000, 0, Vector.replicate 12 ⟨100, 128⟩, 30000, 10000, 0x50⟩

/-- Frame B by its fields. -/
def packetB : Packet :=
  ⟨36000, 35000, #v[⟨200, 0⟩, ⟨201, 10⟩, ⟨202, 20⟩, ⟨203, 30⟩, ⟨204, 40⟩, ⟨205, 50⟩, ⟨206, 60⟩, ⟨207, 70⟩, ⟨208, 80⟩,
    ⟨209, 90⟩, ⟨210, 100⟩, ⟨211, 110⟩], 1000, 10500, 0x4B⟩

/-- The Measurements of frame B (V-I2). -/
def measurementsB : Measurements :=
  #v[⟨420000, 200, 0⟩, ⟨422000, 201, 10⟩, ⟨424000, 202, 20⟩, ⟨426000, 203, 30⟩, ⟨428000, 204, 40⟩, ⟨430000, 205,
    50⟩, ⟨0, 206, 60⟩, ⟨2000, 207, 70⟩, ⟨4000, 208, 80⟩, ⟨6000, 209, 90⟩, ⟨8000, 210, 100⟩, ⟨10000, 211, 110⟩]

/-! ## Well-formed operands -/

/-- R72: `HDR` and `VER` are not of the catch-all class. -/
theorem test_illFormed_rxDat :
    (Instr.rxDat 0x54).wf = false ∧ (Instr.rxDat 0x2C).wf = false ∧ (Instr.rxDat 0x55).wf = true := by decide

/-- R141: the span is in [-29535, 65535]. -/
theorem test_illFormed_interpAng :
    (Instr.interpAng 0 65536 0).wf = false ∧ (Instr.interpAng 0 (-29536) 0).wf = false ∧ (Instr.interpAng 0 (-29535) 0).wf = true := by decide

/-- R34: a bearing is below 432000. -/
theorem test_illFormed_aggAccept :
    (Instr.aggAccept (Vector.replicate 12 ⟨432000, 0, 0⟩) 0).wf = false ∧ (Instr.aggAccept measurementsB 0).wf = true := by decide

/-! ## Decoding, from words written out from R70, R72 and the vectors -/

/-- R72, the byte rows. -/
theorem test_decode_bytes :
    decode false [0x54] = .ok .rxHdr ∧ decode true [0x2C] = .ok .rxVerBoundary ∧ decode false [0x2C] = .ok .rxVerSeeking ∧
      decode true [0x55] = .ok (.rxDat 0x55) := by decide

/-- The 47 bytes of frame A as one table word, the first byte the least significant. -/
theorem test_decode_frameA :
    decodeTableWord 376
      0x5027107530800064800064800064800064800064800064800064800064800064800064800064800064000003E82C54 =
      some (.frame packetA) := by decide

/-- R70, R71: other words are refused by name. -/
theorem test_decode_rejects :
    decode false [] = .error .noBytes ∧ decode false [0x54, 0x2C] = .error (.noSuchLength 2) ∧
      decode false (List.replicate 47 0x54) = .error .noSyncPair := by decide

/-- R70, R72, R82: the words of the encoder. -/
theorem test_encode_words :
    encode (.rx 0x7F) = some [0x7F] ∧ encode .rxVerBoundary = some [0x2C] ∧ encode .flush = none ∧
      encode (.frame packetB) = some ([0x54, 0x2C] ++ payloadB.toList) := by decide

/-! ## The byte rows -/

/-- V-S2: `VER` in SEEKING is data. -/
theorem test_rx_seeking :
    nextOf (exec (.rx 0x2C) State.reset) = some { State.reset with acc := [0x2C], trace := [.event .none] } := by decide

/-- V-S7: 45 bytes before the first pair are still discarded. -/
theorem test_rx_unsync :
    nextOf (exec (.rx 0x2C) { State.reset with acc := List.replicate 45 0 ++ [0x54], saw := true }) =
      some { State.reset with synced := true, cycles := 1, trace := [.event (.discard .unsync)] } := by decide

/-- V-S3: a second `54` re-arms (R101). -/
theorem test_rxHdr :
    nextOf (exec .rxHdr { State.reset with acc := [0x54], saw := true }) =
      some { State.reset with acc := [0x54, 0x54], saw := true, trace := [.event .none] } := by decide

/-- V-S4: a data byte disarms (R102). -/
theorem test_rxDat :
    nextOf (exec (.rxDat 0) { State.reset with acc := [0x54], saw := true }) =
      some { State.reset with acc := [0x54, 0x00], trace := [.event .none] } := by decide

/-- V-S4: the `2C` after it is data (R104). -/
theorem test_rxVerSeeking :
    nextOf (exec .rxVerSeeking { State.reset with acc := [0x54, 0x00] }) =
      some { State.reset with acc := [0x54, 0x00, 0x2C], trace := [.event .none] } := by decide

/-- Program P1: frame B is closed and delivered. -/
theorem test_rxVerBoundary_frame :
    nextOf (exec .rxVerBoundary (closing payloadB.toList)) =
      some { fresh with batch := measurementsB.toList, speed := 36000, speedValid := true, cycles := 1,
                        trace := [.event (.frame packetB measurementsB)] } := by decide +kernel

/-- V-S10: one byte long; P4: the checksum byte of frame D differs. -/
theorem test_rxVerBoundary_discards :
    nextOf (exec .rxVerBoundary (closing (List.replicate 46 0))) =
        some { fresh with cycles := 1, trace := [.event (.discard .length)] } ∧
      nextOf (exec .rxVerBoundary (closing payloadD.toList)) =
        some { fresh with cycles := 1, trace := [.event (.discard .checksum)] } := by decide +kernel

/-! ## FRAME -/

/-- Frame A from reset: its pair is the first boundary, its payload is left in the accumulator (R250). -/
theorem test_frame :
    (nextOf (exec (.frame packetA) State.reset)).map (fun t => (t.acc, t.saw, t.synced, t.cycles, t.trace.take 2)) =
      some (payloadA.toList, false, true, 1, [.event .none, .event (.discard .unsync)]) := by decide

/-! ## Frame-level operations -/

/-- R105. -/
theorem test_lenchk :
    returned (.lenchk (List.replicate 45 0)) = some (.flag true) ∧ returned (.lenchk (List.replicate 44 0)) = some (.flag false) ∧
      returned (.lenchk (List.replicate 46 0)) = some (.flag false) := by decide

/-- V-C3, V-C4. -/
theorem test_chksum :
    returned (.chksum payloadA) = some (.flag true) ∧ returned (.chksum payloadD) = some (.flag false) := by decide +kernel

/-- R165: the base design. -/
theorem test_chksum_disabled :
    (nextOf (exec (.chksum payloadD) { State.reset with cfg := { Config.default with checkEn := false } })).map State.trace =
      some [.flag true] := by decide

/-- V-D3. -/
theorem test_decode :
    returned (.decode payloadB) = some (.packet packetB) := by decide

/-- V-D2: no sign extension. -/
theorem test_decode_ones :
    returned (.decode (Vector.replicate 45 0xFF)) =
      some (.packet ⟨65535, 65535, Vector.replicate 12 ⟨65535, 255⟩, 65535, 65535, 255⟩) := by decide

/-- S7. -/
theorem test_decSpeed :
    returned (.decSpeed payloadA) = some (.u16 1000) := by decide

/-- V-D3. -/
theorem test_decFsa :
    returned (.decFsa payloadB) = some (.u16 35000) := by decide

/-- V-D3: the first and the last lane. -/
theorem test_decDist :
    returned (.decDist payloadB 0) = some (.u16 200) ∧ returned (.decDist payloadB 11) = some (.u16 211) := by decide

/-- V-D3. -/
theorem test_decConf :
    returned (.decConf payloadB 11) = some (.u8 110) := by decide

/-- S7: 300, as the table reads the printed bytes. -/
theorem test_decLsa :
    returned (.decLsa payloadD) = some (.u16 300) := by decide

/-- S7. -/
theorem test_decTs :
    returned (.decTs payloadD) = some (.u16 10000) := by decide

/-- V-D3. -/
theorem test_decChk :
    returned (.decChk payloadB) = some (.u8 0x4B) := by decide

/-- V-I2. -/
theorem test_interp :
    returned (.interp packetB) = some (.measurements measurementsB) := by decide

/-- V-I3, V-I6. -/
theorem test_interpSpan :
    returned (.interpSpan 1000 1000) = some (.span 36000) ∧ returned (.interpSpan 60000 0) = some (.span (-24000)) := by decide

/-- V-I8, V-I14: the ends of the range. -/
theorem test_interpSpan_extremes :
    returned (.interpSpan 0 65535) = some (.span 65535) ∧ returned (.interpSpan 65535 0) = some (.span (-29535)) := by decide

/-- V-I7, V-I14: the largest numerator and the most negative span. -/
theorem test_interpAng :
    returned (.interpAng 65535 36000 11) = some (.angle 318420) ∧
      returned (.interpAng 65535 (-29535) 11) = some (.angle 29535) := by decide

/-- V-I2: sample 6 lands exactly on 0. -/
theorem test_interpPair :
    returned (.interpPair packetB 6) = some (.measurement ⟨0, 206, 60⟩) := by decide

/-! ## The default checksum (V-C1, V-C2, V-C6 and the table of R163) -/

/-- V-C1: the ASCII digits 1 to 9. -/
theorem test_crc_check :
    crcFrom 0 [0x31, 0x32, 0x33, 0x34, 0x35, 0x36, 0x37, 0x38, 0x39] = 0xC3 ∧ crcFrom 0 [0x54, 0x2C] = 0xD8 := by decide +kernel

/-- V-C6. -/
theorem test_crc_constant :
    crc8_4D (Vector.replicate 44 0) = 0xBE ∧ crc8_4D (Vector.replicate 44 0xFF) = 0x20 := by decide +kernel

/-- The table of R163. -/
def crcTable : List Byte :=
    [0x00, 0x4D, 0x9A, 0xD7, 0x79, 0x34, 0xE3, 0xAE, 0xF2, 0xBF, 0x68, 0x25, 0x8B, 0xC6, 0x11, 0x5C]
    ++ [0xA9, 0xE4, 0x33, 0x7E, 0xD0, 0x9D, 0x4A, 0x07, 0x5B, 0x16, 0xC1, 0x8C, 0x22, 0x6F, 0xB8, 0xF5]
    ++ [0x1F, 0x52, 0x85, 0xC8, 0x66, 0x2B, 0xFC, 0xB1, 0xED, 0xA0, 0x77, 0x3A, 0x94, 0xD9, 0x0E, 0x43]
    ++ [0xB6, 0xFB, 0x2C, 0x61, 0xCF, 0x82, 0x55, 0x18, 0x44, 0x09, 0xDE, 0x93, 0x3D, 0x70, 0xA7, 0xEA]
    ++ [0x3E, 0x73, 0xA4, 0xE9, 0x47, 0x0A, 0xDD, 0x90, 0xCC, 0x81, 0x56, 0x1B, 0xB5, 0xF8, 0x2F, 0x62]
    ++ [0x97, 0xDA, 0x0D, 0x40, 0xEE, 0xA3, 0x74, 0x39, 0x65, 0x28, 0xFF, 0xB2, 0x1C, 0x51, 0x86, 0xCB]
    ++ [0x21, 0x6C, 0xBB, 0xF6, 0x58, 0x15, 0xC2, 0x8F, 0xD3, 0x9E, 0x49, 0x04, 0xAA, 0xE7, 0x30, 0x7D]
    ++ [0x88, 0xC5, 0x12, 0x5F, 0xF1, 0xBC, 0x6B, 0x26, 0x7A, 0x37, 0xE0, 0xAD, 0x03, 0x4E, 0x99, 0xD4]
    ++ [0x7C, 0x31, 0xE6, 0xAB, 0x05, 0x48, 0x9F, 0xD2, 0x8E, 0xC3, 0x14, 0x59, 0xF7, 0xBA, 0x6D, 0x20]
    ++ [0xD5, 0x98, 0x4F, 0x02, 0xAC, 0xE1, 0x36, 0x7B, 0x27, 0x6A, 0xBD, 0xF0, 0x5E, 0x13, 0xC4, 0x89]
    ++ [0x63, 0x2E, 0xF9, 0xB4, 0x1A, 0x57, 0x80, 0xCD, 0x91, 0xDC, 0x0B, 0x46, 0xE8, 0xA5, 0x72, 0x3F]
    ++ [0xCA, 0x87, 0x50, 0x1D, 0xB3, 0xFE, 0x29, 0x64, 0x38, 0x75, 0xA2, 0xEF, 0x41, 0x0C, 0xDB, 0x96]
    ++ [0x42, 0x0F, 0xD8, 0x95, 0x3B, 0x76, 0xA1, 0xEC, 0xB0, 0xFD, 0x2A, 0x67, 0xC9, 0x84, 0x53, 0x1E]
    ++ [0xEB, 0xA6, 0x71, 0x3C, 0x92, 0xDF, 0x08, 0x45, 0x19, 0x54, 0x83, 0xCE, 0x60, 0x2D, 0xFA, 0xB7]
    ++ [0x5D, 0x10, 0xC7, 0x8A, 0x24, 0x69, 0xBE, 0xF3, 0xAF, 0xE2, 0x35, 0x78, 0xD6, 0x9B, 0x4C, 0x01]
    ++ [0xF4, 0xB9, 0x6E, 0x23, 0x8D, 0xC0, 0x17, 0x5A, 0x06, 0x4B, 0x9C, 0xD1, 0x7F, 0x32, 0xE5, 0xA8]

/-- Each entry is one byte of the CRC from 0. -/
theorem test_crc_table :
    crcTable = (List.range 256).map fun k => crcByte 0 (BitVec.ofNat 8 k) := by decide +kernel

/-! ## Aggregator and system -/

/-- V-A 4. -/
theorem test_aggAccept :
    (nextOf (exec (.aggAccept measurementsB 36000) { fresh with cycles := 2 })) =
      some { fresh with cycles := 3, batch := measurementsB.toList, speed := 36000, speedValid := true } := by decide

/-- V-A: a tick counts. -/
theorem test_aggTick :
    nextOf (exec .aggTick { fresh with cycles := 39 }) = some { fresh with cycles := 40 } := by decide

/-- V-A: 39 calls are not due, 40 are; also while the source has failed (R173). -/
theorem test_shouldFlush :
    nextOf (exec .shouldFlush { fresh with cycles := 39 }) = some { fresh with cycles := 39, trace := [.flag false] } ∧
      nextOf (exec .shouldFlush { failed with cycles := 40 }) = some { failed with cycles := 40, trace := [.flag true] } := by decide

/-- V-A 2: an empty batch and no speed. -/
theorem test_flush_empty :
    returned .flush = some (.batch [] none) := by decide

/-- V-A 11, 13: the batch goes, the speed survives. -/
theorem test_flush :
    nextOf (exec .flush { fresh with batch := measurementsB.toList, speed := 36000, speedValid := true, cycles := 3 }) =
      some { fresh with speed := 36000, speedValid := true, trace := [.batch measurementsB.toList (some 36000)] } := by decide

/-- V-X1. -/
theorem test_srcFail :
    nextOf (exec .srcFail State.reset) = some { failed with trace := [.event (.fatal .srcFail)] } := by decide

/-- V-X2, V-X3. -/
theorem test_refused_while_failed :
    refusalOf (exec (.rx 0) failed) = some .sourceFailed ∧ refusalOf (exec .srcFail failed) = some .sourceFailed := by decide

/-- V-X5: RESET is the way back, and every element is cleared. -/
theorem test_reset :
    nextOf (exec .reset { closing [1] with fault := true, batch := measurementsB.toList, speed := 1, speedValid := true, cycles := 2 }) =
      some State.reset := by decide

/-- The first step after reset runs the byte placed. -/
theorem test_step_first :
    nextOf (step (State.reset.withFetchWord 8 0x54)) =
      some { State.reset with acc := [0x54], saw := true, trace := [.event .none] } := by decide

/-- R227: with nothing pending nothing changes. -/
theorem test_step_idle :
    nextOf (step State.reset) = some State.reset := by decide

/-- R57: the counter saturates at 47. -/
theorem test_bounded_saturates :
    (BoundedSync.append (cap := 46) ⟨Vector.replicate 46 0, 47, false, true⟩ 1).n = 47 ∧
      (BoundedSync.append (cap := 46) ⟨Vector.replicate 46 0, 45, false, true⟩ 1).buf[45] = 1 := by decide

/-! ## Witnesses: a state and operands that meet the hypotheses of each obligation that has some -/

theorem witness_DecodeInvertsEncode_boundary :
    (Instr.rxVerBoundary).wf = true ∧ encode .rxVerBoundary = some [0x2C] ∧ ∀ b, Instr.rxVerBoundary ≠ .rx b := ⟨rfl, rfl, fun _ h => by cases h⟩

theorem witness_DecodeInvertsEncode_seeking :
    (Instr.rxVerSeeking).wf = true ∧ encode .rxVerSeeking = some [0x2C] ∧ ∀ b, Instr.rxVerSeeking ≠ .rx b := ⟨rfl, rfl, fun _ h => by cases h⟩

theorem witness_DecodeInvertsEncode_frame :
    (Instr.frame packetB).wf = true ∧ encode (.frame packetB) = some ([0x54, 0x2C] ++ payloadB.toList) ∧
      ∀ b, Instr.frame packetB ≠ .rx b := ⟨rfl, by decide, fun _ h => by cases h⟩

theorem witness_OtherWordsRejected :
    ([] : List Byte).length ≠ 1 ∧ ([] : List Byte).length ≠ 47 ∧ (List.replicate 47 (0x54 : Byte)).length = 47 ∧
      (List.replicate 47 (0x54 : Byte)).take 2 ≠ [0x54, 0x2C] := by decide

theorem witness_StepRunsDecodedInstruction_byte :
    (State.reset.withFetchWord 8 0x54).pending = .rx 0x54 :: [] ∧ decode State.reset.saw [0x54] = .ok .rxHdr := by decide

theorem witness_StepRunsDecodedInstruction_commands :
    { State.reset with pending := [Transaction.srcFail] }.pending = .srcFail :: [] ∧
      { State.reset with pending := [Transaction.reset] }.pending = .reset :: [] ∧
      { State.reset with pending := [Transaction.shouldFlush] }.pending = .shouldFlush :: [] ∧
      { State.reset with pending := [Transaction.flush] }.pending = .flush :: [] ∧ State.reset.pending = [] := by decide

theorem witness_RxAlwaysAccepted_appends :
    State.reset.fault = false ∧ ¬ (State.reset.saw = true ∧ (0x2C : Byte) = 0x2C) := by decide

theorem witness_RxAlwaysAccepted_closes :
    (closing []).fault = false ∧ (closing []).saw = true := by decide

theorem witness_AppendRowsComplete :
    State.reset.fault = false ∧ State.reset.saw = false ∧ (0x00 : Byte) ≠ 0x54 ∧ (0x00 : Byte) ≠ 0x2C := by decide

theorem witness_BoundaryOutcomes_unsync :
    { State.reset with acc := [0x54], saw := true }.fault = false ∧ { State.reset with acc := [0x54], saw := true }.saw = true ∧
      { State.reset with acc := [0x54], saw := true }.synced = false := by decide

theorem witness_BoundaryOutcomes_length :
    (closing (List.replicate 44 0)).fault = false ∧ (closing (List.replicate 44 0)).saw = true ∧
      (closing (List.replicate 44 0)).synced = true ∧
      ((closing (List.replicate 44 0)).acc.take ((closing (List.replicate 44 0)).acc.length - 1)).length ≠ 45 := by decide

theorem witness_BoundaryOutcomes_checksum :
    (closing payloadD.toList).fault = false ∧ (closing payloadD.toList).saw = true ∧ (closing payloadD.toList).synced = true ∧
      payloadD.toList = (closing payloadD.toList).acc.take ((closing payloadD.toList).acc.length - 1) ∧
      (closing payloadD.toList).cfg.checkEn = true ∧
      chkOf (closing payloadD.toList).cfg.chk (checkedBytes payloadD) ≠ payloadD[44] := by decide +kernel

theorem witness_BoundaryOutcomes_frame :
    (closing payloadA.toList).fault = false ∧ (closing payloadA.toList).saw = true ∧ (closing payloadA.toList).synced = true ∧
      payloadA.toList = (closing payloadA.toList).acc.take ((closing payloadA.toList).acc.length - 1) ∧
      chkOf (closing payloadA.toList).cfg.chk (checkedBytes payloadA) = payloadA[44] := by decide +kernel

theorem witness_UnselectedRowsRefused :
    State.reset.fault = false ∧ State.reset.saw = false ∧ (closing []).fault = false ∧ (closing []).saw = true := by decide

theorem witness_OneEventPerStep :
    (∃ t, exec (.rx 0x54) State.reset = .next t) ∧ ∃ t, exec .srcFail State.reset = .next t := ⟨⟨_, rfl⟩, _, rfl⟩

theorem witness_DiscardEffect_unsync :
    nextOf (exec (.rx 0x2C) { State.reset with acc := [0x54], saw := true }) =
      some { State.reset with synced := true, cycles := 1, trace := [] ++ [.event (.discard .unsync)] } := by decide

theorem witness_DiscardEffect_length :
    nextOf (exec (.rx 0x2C) (closing [])) = some { fresh with cycles := 1, trace := [] ++ [.event (.discard .length)] } := by decide

theorem witness_DiscardEffect_checksum :
    nextOf (exec (.rx 0x2C) (closing payloadD.toList)) =
      some { fresh with cycles := 1, trace := [] ++ [.event (.discard .checksum)] } := by decide +kernel

theorem witness_ChksumVerdict :
    (checkedBytes payloadA).toList = payloadA.toList.take 44 := by decide

theorem witness_BaseDesignReportsEveryFrame :
    let s := { closing payloadD.toList with cfg := { Config.default with checkEn := false } }
    s.fault = false ∧ s.synced = true ∧ s.saw = true ∧ s.cfg.checkEn = false ∧ payloadD.toList = s.acc.take (s.acc.length - 1) := by decide

theorem witness_DefaultChkSeesOneByte :
    (1 : Byte) ≠ (Vector.replicate 44 (0 : Byte))[(43 : Fin 44)] := by decide

theorem witness_SpanRule :
    (35000 : U16).toNat < (36000 : U16).toNat ∧ (1000 : U16).toNat ≤ (1000 : U16).toNat ∧ (35999 : U16).toNat < 36000 ∧
      (0 : U16).toNat < 36000 := by decide

theorem witness_OnlySampleZeroIsPinned :
    packetB.fsaRaw.toNat < 36000 := by decide

theorem witness_EqualAnglesFullTurn :
    { packetB with lsaRaw := 35000 }.fsaRaw = { packetB with lsaRaw := 35000 }.lsaRaw := by decide

theorem witness_SweepWrapsAtMostOnce :
    packetB.fsaRaw.toNat < 36000 ∧ packetB.lsaRaw.toNat < 36000 := by decide

theorem witness_SweepWrapsAtMostOnce_both_counts :
    432000 ≤ 12 * (packetB.fsaRaw.toNat : Int) + 11 * spanOf packetB.fsaRaw packetB.lsaRaw ∧
      ¬ 432000 ≤ 12 * (packetA.fsaRaw.toNat : Int) + 11 * spanOf packetA.fsaRaw packetA.lsaRaw := by decide

theorem witness_AcceptAndTick :
    (∃ t, exec (.rx 0x2C) (closing []) = .next t) ∧ ∃ t, exec (.rx 0x2C) State.reset = .next t := ⟨⟨_, rfl⟩, _, rfl⟩

theorem witness_FlushReturnsTheBatch :
    State.reset.speedValid = false ∧ { State.reset with speedValid := true }.speedValid = true := by decide

theorem witness_ThresholdCountsEveryCall :
    { fresh with speed := 7 }.cycles = 0 ∧ { fresh with speed := 7 }.batch = [] := by decide

theorem witness_BoundedBatchSuffices :
    BatchLaw { fresh with batch := measurementsB.toList, cycles := 39 } ∧
      { fresh with batch := measurementsB.toList, cycles := 39 }.cycles < Config.default.flushThreshold ∧
      23 < { fresh with batch := measurementsB.toList, cycles := 39 }.batch.length + 12 := by decide

theorem witness_SourceFailure :
    State.reset.fault = false ∧ failed.fault = true := by decide

theorem witness_RefusalWhileFaulted :
    failed.fault = true := by decide

theorem witness_ReadingOperationsFrame :
    readsOnly (.decode payloadA) = true ∧ readsOnly .shouldFlush = true := by decide

theorem witness_AppendRowsFrame :
    (∃ t, exec .rxHdr State.reset = .next t) ∧ (∃ t, exec .rxVerSeeking State.reset = .next t) ∧
      ∃ t, exec (.rxDat 0x00) State.reset = .next t := ⟨⟨_, rfl⟩, ⟨_, rfl⟩, _, rfl⟩

theorem witness_RxFrame :
    (∃ t, exec .rxVerBoundary (closing []) = .next t) ∧ (∃ t, exec (.rx 0x2C) (closing []) = .next t) ∧
      (closing []).synced = true := ⟨⟨_, rfl⟩, ⟨_, rfl⟩, rfl⟩

theorem witness_AggregatorFrame :
    (∃ m v, Instr.aggAccept measurementsB 1 = .aggAccept m v) ∧ (Instr.aggTick = .aggTick ∨ Instr.aggTick = .flush) := ⟨⟨_, _, rfl⟩, .inl rfl⟩

theorem witness_ConfigurationIsStatic :
    ∃ t, exec .reset (closing [1, 2]) = .next t := ⟨_, rfl⟩

theorem witness_StickyBits :
    (∃ t, exec .flush { failed with synced := true, speedValid := true } = .next t) ∧ Instr.flush ≠ .reset ∧ Instr.flush ≠ .srcFail := ⟨⟨_, rfl⟩, by decide, by decide⟩

theorem witness_SawTracksLastByte :
    SawLaw (closing [1]) ∧ ∃ t, step { closing [1] with pending := [.rx 0x54] } = .next t := ⟨by decide, _, rfl⟩

theorem witness_AccumulatorHoldsNoPair :
    SawLaw (closing [1]) ∧ NoPairHeld (closing [1]) ∧ ∃ t, step { closing [1] with pending := [.rx 0x2C] } = .next t := ⟨by decide, by decide, _, rfl⟩

theorem witness_BatchWithinCycles :
    BatchLaw { closing payloadB.toList with batch := measurementsB.toList, cycles := 1, pending := [.rx 0x2C] } ∧
      ∃ t, step { closing payloadB.toList with batch := measurementsB.toList, cycles := 1, pending := [.rx 0x2C] } = .next t := ⟨by decide, _, rfl⟩

theorem witness_BearingsInOneTurn :
    AngleLaw { closing payloadB.toList with batch := measurementsB.toList, pending := [.rx 0x2C] } ∧
      ∃ t, step { closing payloadB.toList with batch := measurementsB.toList, pending := [.rx 0x2C] } = .next t := ⟨by decide, _, rfl⟩

theorem witness_FreshBlockHoldsNothing :
    FreshLaw { State.reset with acc := [0x54], saw := true, pending := [.rx 0x2C] } ∧
      ∃ t, step { State.reset with acc := [0x54], saw := true, pending := [.rx 0x2C] } = .next t := ⟨by decide, _, rfl⟩

theorem witness_BearingInRadians :
    (Measurement.mk 431999 0 0).ang < 432000 := by decide

theorem witness_ChunkingDoesNotMatter :
    { closing [1] with fault := true, speed := 7, cycles := 3 }.acc = (closing [1]).acc ∧
      { closing [1] with fault := true, speed := 7, cycles := 3 }.saw = (closing [1]).saw ∧
      { closing [1] with fault := true, speed := 7, cycles := 3 }.synced = (closing [1]).synced := by decide

theorem witness_StreamStepsAreRun :
    { fresh with pending := [.rx 0x54, .rx 0x2C, .flush] }.fault = false ∧
      { fresh with pending := [.rx 0x54, .rx 0x2C, .flush] }.pending =
        ([0x54, 0x2C] : List Byte).map Transaction.rx ++ [.flush] := by decide

theorem witness_BackToBackFrames :
    ∀ f ∈ [payloadA] ++ [payloadB], hasPair f.toList = false := by
  have hA : hasPair payloadA.toList = false := by decide
  have hB : hasPair payloadB.toList = false := by decide
  simp [hA, hB]

theorem witness_GarbageCostsOneFrame :
    fresh.synced = true ∧ fresh.saw = false ∧ fresh.acc = [] ∧ ([0xDE] : List Byte) ≠ [] ∧
      hasPair (payloadA.toList ++ [0xDE]) = false ∧ ∀ f ∈ [payloadB], hasPair f.toList = false := by
  have hB : hasPair payloadB.toList = false := by decide
  exact ⟨rfl, rfl, rfl, by decide, by decide, by simp [hB]⟩

theorem witness_FalseSyncCostsTwoDiscards :
    fresh.synced = true ∧ fresh.saw = false ∧ fresh.acc = [] ∧
      (List.replicate 13 (0 : Byte)).length + (List.replicate 30 (0 : Byte)).length = 43 ∧
      hasPair (List.replicate 13 0) = false ∧ hasPair (List.replicate 30 0) = false := by decide

theorem witness_FalseSyncCostsTwoDiscards_ends :
    ([] : List Byte).length + (List.replicate 43 (0x54 : Byte)).length = 43 ∧ hasPair [] = false ∧
      hasPair (List.replicate 43 0x54) = false := by decide

theorem witness_FrameRowCompletes :
    fresh.fault = false ∧ hasPair (encodePacket packetB).toList = false := by decide

theorem witness_FrameRowIsItsBytes :
    State.reset.fault = false := by decide

theorem witness_FrameIsDelivered :
    let s := { fresh with pending := (payloadB.toList ++ [0x54, 0x2C]).map Transaction.rx ++ [] }
    s.fault = false ∧ s.synced = true ∧ s.saw = false ∧ s.acc = [] ∧ hasPair payloadB.toList = false ∧
      s.pending = (payloadB.toList ++ [0x54, 0x2C]).map Transaction.rx ++ [] := by decide

theorem witness_FrameIsDelivered_both_events :
    chkOf fresh.cfg.chk (checkedBytes payloadB) = payloadB[44] ∧ fresh.cfg.checkEn = true ∧
      chkOf fresh.cfg.chk (checkedBytes payloadD) ≠ payloadD[44] ∧ hasPair payloadD.toList = false := by decide +kernel

theorem witness_BoundedAccumulatorRefines :
    Tracks (cap := 46) ⟨Vector.replicate 46 0, 0, false, false⟩ State.reset ∧ State.reset.fault = false ∧
      Tracks (cap := 64) ⟨Vector.replicate 64 1, 0, false, false⟩ State.reset :=
  ⟨⟨rfl, rfl, rfl, by simp [State.reset]⟩, rfl, rfl, rfl, rfl, by simp [State.reset]⟩

theorem witness_DutifulEnvironmentNeverRefused :
    admissible State.reset.fault [.rx 1, .srcFail, .flush, .reset, .rx 2] = true ∧ admissible failed.fault [.shouldFlush] = true := by decide

theorem witness_AggregatorDoesNotInfluenceEvents :
    (closing payloadB.toList).fault = false := by decide

end Sys2Proof.Tests
end

section
/-! PROOFS. The invariants of Safety.lean hold of every state whose accumulator or batch is empty, as after a boundary, a
`FLUSH` or a `RESET`; the reset state is one of them (R38). -/

namespace Sys2Proof.Safety

open Sys2Proof.Machine

section EmptyAccumulator

variable {s : State} (hacc : s.acc = [])
include hacc

theorem sawLaw_of_acc_nil (hsaw : s.saw = false) : SawLaw s := by simp [SawLaw, hacc, hsaw]

theorem noPairHeld_of_acc_nil : NoPairHeld s := by simp [NoPairHeld, hacc, hasPair]

end EmptyAccumulator

section EmptyBatch

variable {s : State} (hbatch : s.batch = [])
include hbatch

theorem batchLaw_of_batch_nil : BatchLaw s := by simp [BatchLaw, hbatch]

theorem angleLaw_of_batch_nil : AngleLaw s := by simp [AngleLaw, hbatch]

/-- With nothing counted, and the speed at its reset value, both implications of `FreshLaw` have a true conclusion. -/
theorem freshLaw_of_batch_nil (hcycles : s.cycles = 0) (hvalid : s.speedValid = false) (hspeed : s.speed = 0) : FreshLaw s :=
  ⟨fun _ => ⟨hcycles, hvalid⟩, fun _ => ⟨hbatch, hspeed⟩⟩

end EmptyBatch

/-- Settles O49: the accumulator and the batch are empty at reset (R38), so the five invariants hold; the configuration and the
two lists of the environment are read off `State.reset` (R7). -/
theorem invariantsAtReset : Obligations.InvariantsAtReset :=
  ⟨sawLaw_of_acc_nil rfl rfl, noPairHeld_of_acc_nil rfl, batchLaw_of_batch_nil rfl, angleLaw_of_batch_nil rfl,
    freshLaw_of_batch_nil rfl rfl rfl rfl, rfl, rfl, rfl, rfl, rfl, rfl⟩

end Sys2Proof.Safety
end

section
/-! PROOFS. The transactions of the Byte Source as inversion lemmas: when each answers a next state, and which one. Every byte
row is `RX` where R72 selects it, so what the rows do is what `RX` does. -/

namespace Sys2Proof.Machine

theorem whileHealthy_eq_next_iff (s t : State) (k : State → Result) :
    whileHealthy s k = .next t ↔ s.fault = false ∧ k s = .next t := by
  cases h : s.fault
  · simp [whileHealthy_of_healthy s k h]
  · simp [whileHealthy_of_fault s k h]

theorem execRxHdr_eq_next_iff (s t : State) :
    execRxHdr s = .next t ↔ s.fault = false ∧ t = (s.append Config.hdr true).emit (.event .none) := by
  simp [execRxHdr, whileHealthy_eq_next_iff, eq_comm (a := t)]

theorem execRxVerSeeking_eq_next_iff (s t : State) :
    execRxVerSeeking s = .next t ↔
      s.fault = false ∧ s.saw = false ∧ t = (s.append Config.ver false).emit (.event .none) := by
  cases h : s.saw <;> simp [execRxVerSeeking, whileHealthy_eq_next_iff, h, eq_comm (a := t)]

theorem execRxDat_eq_next_iff (b : Byte) (s t : State) :
    execRxDat b s = .next t ↔
      s.fault = false ∧ datSelected b = true ∧ t = (s.append b false).emit (.event .none) := by
  cases h : datSelected b <;> simp [execRxDat, whileHealthy_eq_next_iff, h, eq_comm (a := t)]

theorem execSrcFail_eq_next_iff (s t : State) :
    execSrcFail s = .next t ↔ s.fault = false ∧ t = s.raiseFatal := by
  simp [execSrcFail, whileHealthy_eq_next_iff, eq_comm (a := t)]

/-- A byte that closes no pair is appended, whichever row it belongs to (R100). -/
theorem execRx_of_append (b : Byte) (s : State) (h : closesPair s.saw b = false) :
    execRx b s = whileHealthy s fun s => .next ((s.append b (sawAfter b)).emit (.event .none)) := by
  simp [execRx, whileHealthy, feed_append s b h]

theorem execRxHdr_eq_execRx (s : State) : execRxHdr s = execRx Config.hdr s :=
  (execRx_of_append Config.hdr s (by simp [closesPair])).symm

theorem execRxVerSeeking_eq_execRx (s : State) (h : s.saw = false) : execRxVerSeeking s = execRx Config.ver s := by
  rw [execRx_of_append Config.ver s (by simp [closesPair, h])]
  simp [execRxVerSeeking, whileHealthy, h, sawAfter]

theorem execRxVerBoundary_eq_execRx (s : State) (h : s.saw = true) : execRxVerBoundary s = execRx Config.ver s := by
  have hclose : closesPair s.saw Config.ver = true := (closesPair_iff _ _).2 ⟨h, rfl⟩
  simp only [execRxVerBoundary, execRx, whileHealthy, h, if_true, feed_boundary s Config.ver hclose]

theorem datSelected_iff (b : Byte) : datSelected b = true ↔ b ≠ Config.hdr ∧ b ≠ Config.ver := by
  simp [datSelected]

theorem execRxDat_eq_execRx (b : Byte) (s : State) (h : datSelected b = true) : execRxDat b s = execRx b s := by
  obtain ⟨hhdr, hver⟩ := (datSelected_iff b).1 h
  have hopen : closesPair s.saw b = false := Bool.eq_false_iff.2 fun hc => hver ((closesPair_iff _ _).1 hc).2
  have hsaw : sawAfter b = false := beq_false_of_ne hhdr
  rw [execRx_of_append b s hopen]
  simp [execRxDat, whileHealthy, h, hsaw]

/-- The row that the decoder selects for a byte is `RX` of that byte (R72, R100). -/
theorem exec_decodeByte (b : Byte) (s : State) : exec (decodeByte s.saw b) s = execRx b s := by
  rcases decodeByte_cases s.saw b with ⟨rfl, hd⟩ | ⟨rfl, hsaw, hd⟩ | ⟨rfl, hsaw, hd⟩ | ⟨hhdr, hver, hd⟩ <;> rw [hd]
  · exact execRxHdr_eq_execRx s
  · exact execRxVerSeeking_eq_execRx s hsaw
  · exact execRxVerBoundary_eq_execRx s hsaw
  · exact execRxDat_eq_execRx b s ((datSelected_iff b).2 ⟨hhdr, hver⟩)

/-- `RX.VER.BOUNDARY` runs only as `RX` of the byte `2C` in HEADER_SEEN (R103). -/
theorem execRx_of_execRxVerBoundary (s t : State) (h : execRxVerBoundary s = .next t) :
    execRx Config.ver s = .next t := by
  cases hsaw : s.saw
  · simp [execRxVerBoundary, whileHealthy_eq_next_iff, hsaw] at h
  · rwa [← execRxVerBoundary_eq_execRx s hsaw]

@[simp] theorem receive_singleton (b : Byte) (s : State) : receive [b] s = execRx b s := by
  cases h : execRx b s <;> simp [receive, h]

/-- After the first boundary, setting `synced` again changes nothing (R23). -/
theorem State.closeFrame_markSynced_of_synced (s : State) (h : s.synced = true) :
    s.closeFrame.markSynced = s.closeFrame := by
  cases s; cases h; rfl

/-- The three shapes of the state after a byte: the byte appended, or the accumulator closed and then either a discard or a
frame that the aggregator accepts. `synced` is 1 after a boundary whatever its outcome, so its causes need no case each. -/
theorem execRx_effects (b : Byte) (s t : State) (h : execRx b s = .next t) :
    (closesPair s.saw b = false ∧ t = (s.append b (sawAfter b)).emit (.event .none)) ∨
    (∃ c, t = s.closeFrame.markSynced.raiseDiscard c) ∨
    (∃ p, t = (s.closeFrame.markSynced.accept (interpolate p) p.speedRaw).emit (.event (.frame p (interpolate p)))) := by
  obtain ⟨-, hopen | ⟨-, -, rfl⟩ | ⟨-, hs, -, rfl⟩ | ⟨-, hs, f, -, -, rfl⟩ | ⟨-, hs, f, -, -, rfl⟩⟩ := execRx_cases b s t h
  · exact .inl hopen
  · exact .inr (.inl ⟨_, rfl⟩)
  · exact .inr (.inl ⟨.length, by rw [s.closeFrame_markSynced_of_synced hs]⟩)
  · exact .inr (.inl ⟨.checksum, by rw [s.closeFrame_markSynced_of_synced hs]⟩)
  · exact .inr (.inr ⟨decodePacket f, by rw [s.closeFrame_markSynced_of_synced hs]⟩)

end Sys2Proof.Machine
end

section
/-! PROOFS. What the instructions leave unchanged: the configuration, the pending transactions and the sticky bits (R23, R25,
R29, R30). -/

namespace Sys2Proof.Safety

open Sys2Proof.Machine

/-- What no byte of the stream changes, and the two bits that none clears. -/
structure KeptByBytes (s t : State) : Prop where
  cfg : t.cfg = s.cfg
  pending : t.pending = s.pending
  fault : t.fault = s.fault
  synced : s.synced = true → t.synced = true
  speedValid : s.speedValid = true → t.speedValid = true

theorem KeptByBytes.refl (s : State) : KeptByBytes s s := ⟨rfl, rfl, rfl, id, id⟩

theorem KeptByBytes.trans {s t u : State} (hst : KeptByBytes s t) (htu : KeptByBytes t u) : KeptByBytes s u where
  cfg := htu.cfg.trans hst.cfg
  pending := htu.pending.trans hst.pending
  fault := htu.fault.trans hst.fault
  synced := htu.synced ∘ hst.synced
  speedValid := htu.speedValid ∘ hst.speedValid

theorem execRx_kept (b : Byte) (s t : State) (h : execRx b s = .next t) : KeptByBytes s t := by
  obtain ⟨-, rfl⟩ | ⟨c, rfl⟩ | ⟨p, rfl⟩ := execRx_effects b s t h
  · exact ⟨rfl, rfl, rfl, id, id⟩
  · exact ⟨rfl, rfl, rfl, fun _ => rfl, id⟩
  · exact ⟨rfl, rfl, rfl, fun _ => rfl, fun _ => rfl⟩

theorem receive_kept (bs : List Byte) (s t : State) (h : receive bs s = .next t) : KeptByBytes s t :=
  receive_invariant (KeptByBytes s) (fun b u v hsu huv => hsu.trans (execRx_kept b u v huv)) bs s t (.refl s) h

theorem exec_of_readsOnly (i : Instr) (s : State) (h : readsOnly i = true) : ∃ v, exec i s = .next (s.emit v) := by
  cases i <;> cases h <;> exact ⟨_, rfl⟩

/-- Everything an instruction can answer a next state with: the Byte Source's rows receive bytes, SRC_FAIL and RESET act on the
whole block, the reading operations only return a value, and the others are the aggregator's. -/
theorem exec_effects (i : Instr) (s t : State) (h : exec i s = .next t) :
    (∃ bs, receive bs s = .next t) ∨ (i = .srcFail ∧ t = s.raiseFatal) ∨ (i = .reset ∧ t = s.resetElements) ∨
    (∃ v, t = s.emit v) ∨ (∃ m v, t = s.accept m v) ∨ t = s.tick ∨ (∃ v, t = s.clearBatch.emit v) := by
  have of_byte (b : Byte) (hb : execRx b s = .next t) : ∃ bs, receive bs s = .next t := ⟨[b], by simpa using hb⟩
  by_cases hr : readsOnly i = true
  · obtain ⟨v, hv⟩ := exec_of_readsOnly i s hr
    rw [hv] at h
    cases h
    exact .inr (.inr (.inr (.inl ⟨v, rfl⟩)))
  cases i with
  | rx b => exact .inl (of_byte b h)
  | rxHdr => exact .inl (of_byte Config.hdr ((execRxHdr_eq_execRx s).symm.trans h))
  | rxVerSeeking =>
    obtain ⟨-, hsaw, -⟩ := (execRxVerSeeking_eq_next_iff s t).1 h
    exact .inl (of_byte Config.ver ((execRxVerSeeking_eq_execRx s hsaw).symm.trans h))
  | rxVerBoundary => exact .inl (of_byte Config.ver (execRx_of_execRxVerBoundary s t h))
  | rxDat b =>
    obtain ⟨-, hdat, -⟩ := (execRxDat_eq_next_iff b s t).1 h
    exact .inl (of_byte b ((execRxDat_eq_execRx b s hdat).symm.trans h))
  | frame p => exact .inl ⟨_, h⟩
  | srcFail => exact .inr (.inl ⟨rfl, ((execSrcFail_eq_next_iff s t).1 h).2⟩)
  | reset => cases h; exact .inr (.inr (.inl ⟨rfl, rfl⟩))
  | aggAccept m v => cases h; exact .inr (.inr (.inr (.inr (.inl ⟨m, v, rfl⟩))))
  | aggTick => cases h; exact .inr (.inr (.inr (.inr (.inr (.inl rfl)))))
  | flush => cases h; exact .inr (.inr (.inr (.inr (.inr (.inr ⟨_, rfl⟩)))))
  | _ => exact absurd rfl hr

/-- Settles O42, effect by effect: no operation over the state writes `cfg` or `pending`, and for the Byte Source's rows that is
carried along the bytes. -/
theorem configurationIsStatic : Obligations.ConfigurationIsStatic := by
  intro i s t h
  obtain ⟨bs, hbs⟩ | ⟨-, rfl⟩ | ⟨-, rfl⟩ | ⟨v, rfl⟩ | ⟨m, v, rfl⟩ | rfl | ⟨v, rfl⟩ := exec_effects i s t h
  · have hkept := receive_kept bs s t hbs
    exact ⟨hkept.cfg, hkept.pending⟩
  all_goals exact ⟨rfl, rfl⟩

/-- Settles O43, effect by effect: RESET is excluded, SRC_FAIL sets only `fault`, AGG.ACCEPT sets `speed_valid`, and no byte
clears a bit. -/
theorem stickyBits : Obligations.StickyBits := by
  intro i s t h hreset
  obtain ⟨bs, hbs⟩ | ⟨hfail, rfl⟩ | ⟨hi, -⟩ | ⟨v, rfl⟩ | ⟨m, v, rfl⟩ | rfl | ⟨v, rfl⟩ := exec_effects i s t h
  · have hkept := receive_kept bs s t hbs
    exact ⟨hkept.synced, fun hf => hkept.fault.trans hf, hkept.speedValid, fun _ => hkept.fault⟩
  · exact ⟨id, fun _ => rfl, id, fun hi => absurd hfail hi⟩
  · exact absurd hi hreset
  · exact ⟨id, id, id, fun _ => rfl⟩
  · exact ⟨id, id, fun _ => rfl, fun _ => rfl⟩
  · exact ⟨id, id, id, fun _ => rfl⟩
  · exact ⟨id, id, id, fun _ => rfl⟩

/-- The three appending rows append one byte and return NONE (R101, R102, R104). -/
theorem exec_appendRow_effect (i : Instr) (s t : State) (hi : i = .rxHdr ∨ i = .rxVerSeeking ∨ ∃ b, i = .rxDat b)
    (h : exec i s = .next t) : ∃ b w, t = (s.append b w).emit (.event .none) := by
  obtain rfl | rfl | ⟨b, rfl⟩ := hi
  · exact ⟨_, _, ((execRxHdr_eq_next_iff s t).1 h).2⟩
  · obtain ⟨-, -, ht⟩ := (execRxVerSeeking_eq_next_iff s t).1 h
    exact ⟨_, _, ht⟩
  · obtain ⟨-, -, ht⟩ := (execRxDat_eq_next_iff b s t).1 h
    exact ⟨_, _, ht⟩

/-- Settles O39: the one effect of the three rows is an append, which writes the address `len(acc)` alone (R51). -/
theorem appendRowsFrame : Obligations.AppendRowsFrame := by
  intro i s t hi h
  obtain ⟨b, w, rfl⟩ := exec_appendRow_effect i s t hi h
  have hsame : ((s.append b w).accByte s.acc.length).isSome = true := by rw [s.accByte_append_same]; rfl
  exact ⟨rfl, rfl, rfl, rfl, rfl, rfl, rfl, rfl, rfl, s.accByte_append_other b w, hsame⟩

/-- Settles O40: both rows are an `RX`, and of its three effects only the accepted frame touches the batch and the speed. -/
theorem rxFrame : Obligations.RxFrame := by
  intro i s t hi h
  obtain ⟨b, hb⟩ : ∃ b, execRx b s = .next t := by
    obtain rfl | ⟨b, rfl⟩ := hi
    · exact ⟨_, execRx_of_execRxVerBoundary s t h⟩
    · exact ⟨b, h⟩
  have hkept := execRx_kept b s t hb
  refine ⟨hkept.fault, hkept.cfg, hkept.pending, hkept.synced, ?_⟩
  obtain ⟨-, rfl⟩ | ⟨c, rfl⟩ | ⟨p, rfl⟩ := execRx_effects b s t hb
  · exact ⟨List.prefix_rfl, Nat.le_refl _, Nat.le_succ _, .inr ⟨rfl, rfl, rfl⟩⟩
  · exact ⟨List.prefix_rfl, Nat.le_succ _, Nat.le_refl _, .inr ⟨rfl, rfl, rfl⟩⟩
  · exact ⟨List.prefix_append _ _, Nat.le_succ _, Nat.le_refl _, .inl ⟨p, interpolate p, rfl, rfl, rfl, rfl⟩⟩

/-- Settles O41: each of the three is one operation on the aggregator's elements, in every state. -/
theorem aggregatorFrame : Obligations.AggregatorFrame := by
  rintro i s (⟨m, v, rfl⟩ | rfl | rfl)
  · exact ⟨_, rfl, rfl, fun _ => rfl, rfl, rfl, rfl, rfl, rfl, nofun, by simp⟩
  · exact ⟨_, rfl, rfl, fun _ => rfl, rfl, rfl, rfl, rfl, rfl, fun _ => rfl, fun _ => ⟨rfl, rfl⟩⟩
  · exact ⟨_, rfl, rfl, fun _ => rfl, rfl, rfl, rfl, rfl, rfl, nofun, fun _ => ⟨rfl, rfl⟩⟩

/-- Settles O37: `State.reset` holds the values of R38. -/
theorem resetValues : Obligations.ResetValues := ⟨rfl, rfl, rfl, rfl, rfl, rfl, rfl, rfl⟩

end Sys2Proof.Safety
end

section
/-! PROOFS. The invariants that every step keeps. A step is composed of a few operations over the state, so an invariant is
checked once for each of them. -/

namespace Sys2Proof.Safety

open Sys2Proof.Machine

/-- A predicate of the seven elements other than `fault` that each operation a step is composed of keeps; a cycle is counted
only after the boundary has set `synced` (R191). -/
structure KeptByOperations (P : State → Prop) : Prop where
  outside : ∀ s fault pending trace, P s → P { s with fault := fault, pending := pending, trace := trace }
  append : ∀ s b, closesPair s.saw b = false → P s → P (s.append b (sawAfter b))
  close : ∀ s, P s → P s.closeFrame.markSynced
  tick : ∀ s, s.synced = true → P s → P s.tick
  accept : ∀ s p, s.synced = true → P s → P (s.accept (interpolate p) p.speedRaw)
  clearBatch : ∀ s, P s → P s.clearBatch
  reset : ∀ s, P s → P s.resetElements

section Kept

variable {P : State → Prop} (hP : KeptByOperations P)
include hP

theorem KeptByOperations.emit (s : State) (v : Output) (hs : P s) : P (s.emit v) :=
  hP.outside s s.fault s.pending (s.trace ++ [v]) hs

theorem KeptByOperations.execRx (b : Byte) (s t : State) (hs : P s) (h : execRx b s = .next t) : P t := by
  obtain ⟨hopen, rfl⟩ | ⟨c, rfl⟩ | ⟨p, rfl⟩ := execRx_effects b s t h
  · exact hP.emit _ _ (hP.append s b hopen hs)
  · exact hP.emit _ _ (hP.tick _ rfl (hP.close s hs))
  · exact hP.emit _ _ (hP.accept _ p rfl (hP.close s hs))

theorem KeptByOperations.step (s t : State) (hs : P s) (h : step s = .next t) : P t := by
  obtain ⟨-, hstep⟩ | ⟨x, rest, -, hstep⟩ := step_cases s <;> rw [hstep] at h
  · cases h
    exact hs
  have htaken : P { s with pending := rest } := hP.outside s s.fault rest s.trace hs
  cases x with
  | rx b => exact hP.execRx b _ t htaken ((exec_decodeByte b { s with pending := rest }).symm.trans h)
  | srcFail =>
    obtain ⟨-, rfl⟩ := (execSrcFail_eq_next_iff _ t).1 h
    exact hP.outside s true rest _ hs
  | reset => cases h; exact hP.reset _ htaken
  | shouldFlush => cases h; exact hP.emit _ _ htaken
  | flush => cases h; exact hP.emit _ _ (hP.clearBatch _ htaken)

end Kept

/-- `saw` is written beside every byte appended (R22), and cleared with the accumulator. -/
theorem sawLaw_kept : KeptByOperations SawLaw where
  outside _ _ _ _ hs := hs
  append _ b _ _ := by simp [SawLaw, sawAfter]
  close _ _ := sawLaw_of_acc_nil rfl rfl
  tick _ _ hs := hs
  accept _ _ _ hs := hs
  clearBatch _ hs := hs
  reset _ _ := sawLaw_of_acc_nil rfl rfl

/-- Settles O44: the accumulator is empty at reset, and `SawLaw` is kept by every operation. -/
theorem sawTracksLastByte : Obligations.SawTracksLastByte :=
  ⟨sawLaw_of_acc_nil rfl rfl, sawLaw_kept.step⟩

/-- With R26, a byte that closes no pair by the flag completes none at the accumulator's end (R107). -/
theorem noPairHeld_append {s : State} {b : Byte} (hsaw : SawLaw s) (hpair : NoPairHeld s)
    (hopen : closesPair s.saw b = false) : NoPairHeld (s.append b (sawAfter b)) := by
  have hlast : decide (s.acc.getLast? = some Config.hdr) = s.saw := by
    rw [Bool.eq_iff_iff, decide_eq_true_iff]
    exact hsaw.symm
  rw [NoPairHeld, State.append_acc, hasPair_append_singleton, hpair, hlast]
  exact hopen

theorem noPairHeld_kept : KeptByOperations fun s => SawLaw s ∧ NoPairHeld s where
  outside _ _ _ _ hs := hs
  append s b hopen hs := ⟨sawLaw_kept.append s b hopen hs.1, noPairHeld_append hs.1 hs.2 hopen⟩
  close _ _ := ⟨sawLaw_of_acc_nil rfl rfl, noPairHeld_of_acc_nil rfl⟩
  tick _ _ hs := hs
  accept _ _ _ hs := hs
  clearBatch _ hs := hs
  reset _ _ := ⟨sawLaw_of_acc_nil rfl rfl, noPairHeld_of_acc_nil rfl⟩

/-- Settles O45: the flag knows the last byte (R26), so the byte that would complete a pair is a boundary instead. -/
theorem accumulatorHoldsNoPair : Obligations.AccumulatorHoldsNoPair := fun s t hsaw hpair h =>
  (noPairHeld_kept.step s t ⟨hsaw, hpair⟩ h).2

/-- The only bearings that enter the batch are those of an interpolated packet, remainders by one turn (R142). -/
theorem angleLaw_accept {s : State} (p : Packet) (hs : AngleLaw s) :
    AngleLaw (s.accept (interpolate p) p.speedRaw) := by
  intro m hm
  obtain hold | hnew := List.mem_append.1 hm
  · exact hs m hold
  · obtain ⟨i, rfl⟩ := (mem_interpolate p m).1 hnew
    exact angOf_lt _ _ i

theorem angleLaw_kept : KeptByOperations AngleLaw where
  outside _ _ _ _ hs := hs
  append _ _ _ hs := hs
  close _ hs := hs
  tick _ _ hs := hs
  accept _ p _ hs := angleLaw_accept p hs
  clearBatch _ _ := angleLaw_of_batch_nil rfl
  reset _ _ := angleLaw_of_batch_nil rfl

/-- Settles O47: `AngleLaw` is kept by every operation. -/
theorem bearingsInOneTurn : Obligations.BearingsInOneTurn := angleLaw_kept.step

/-- Once `synced` is 1 the first half of the law says nothing, so a cycle may be counted and a Packet accepted. -/
theorem freshLaw_of_synced {s : State} (hsynced : s.synced = true)
    (hvalid : s.speedValid = false → s.batch = [] ∧ s.speed = 0) : FreshLaw s :=
  ⟨fun h => absurd hsynced (by simp [h]), hvalid⟩

theorem freshLaw_kept : KeptByOperations FreshLaw where
  outside _ _ _ _ hs := hs
  append _ _ _ hs := hs
  close _ hs := freshLaw_of_synced rfl hs.2
  tick _ hsynced hs := freshLaw_of_synced hsynced hs.2
  accept _ _ hsynced _ := freshLaw_of_synced hsynced nofun
  clearBatch _ hs := ⟨fun h => ⟨rfl, (hs.1 h).2⟩, fun h => ⟨rfl, (hs.2 h).2⟩⟩
  reset _ _ := freshLaw_of_batch_nil rfl rfl rfl rfl

/-- Settles O48: `FreshLaw` is kept by every operation. -/
theorem freshBlockHoldsNothing : Obligations.FreshBlockHoldsNothing := freshLaw_kept.step

end Sys2Proof.Safety
end

section
/-! PROOFS. The synchronizer reads `acc`, `saw` and `synced` alone (R20, R100). -/

namespace Sys2Proof.Machine

/-- The FrameEvent of a boundary is a function of `acc` and `synced` (R103). -/
theorem boundary_event_congr {s u : State} (hacc : u.acc = s.acc) (hsynced : u.synced = s.synced) :
    (boundary u).2 = (boundary s).2 := by
  obtain ⟨hs, e⟩ | ⟨hs, hlen, e⟩ | ⟨hs, f, hf, e⟩ := boundary_cases s <;> rw [e]
  · rw [boundary_unsynced u (hsynced.trans hs)]
  · rw [boundary_length u (hsynced.trans hs) (by rwa [hacc])]
  · rw [boundary_ready u (hsynced.trans hs) f (by rwa [hacc])]

/-- Two states that agree on `acc`, `saw` and `synced` agree on them, and on the FrameEvent, after a byte. -/
theorem feed_congr {s u : State} (b : Byte) (hacc : u.acc = s.acc) (hsaw : u.saw = s.saw)
    (hsynced : u.synced = s.synced) :
    (feed u b).2 = (feed s b).2 ∧ (feed u b).1.acc = (feed s b).1.acc ∧ (feed u b).1.saw = (feed s b).1.saw ∧
      (feed u b).1.synced = (feed s b).1.synced := by
  cases hc : closesPair s.saw b
  · rw [feed_append s b hc, feed_append u b (by rwa [hsaw])]
    simp [hacc, hsynced]
  · rw [feed_boundary s b hc, feed_boundary u b (by rwa [hsaw])]
    obtain ⟨ha, hw, hy, -⟩ := boundary_frame s
    obtain ⟨ha', hw', hy', -⟩ := boundary_frame u
    exact ⟨boundary_event_congr hacc hsynced, ha'.trans ha.symm, hw'.trans hw.symm, hy'.trans hy.symm⟩

end Sys2Proof.Machine

namespace Sys2Proof.Safety

open Sys2Proof.Machine

/-- The synchronizer's elements and the trace after `STEP(b)`, in terms of `FEED` (R191). -/
theorem resolve_feed (s : State) (b : Byte) :
    (resolve (feed s b).1 (feed s b).2).acc = (feed s b).1.acc ∧
    (resolve (feed s b).1 (feed s b).2).saw = (feed s b).1.saw ∧
    (resolve (feed s b).1 (feed s b).2).synced = (feed s b).1.synced ∧
    (resolve (feed s b).1 (feed s b).2).trace = s.trace ++ [.event (reported s.cfg (feed s b).2)] := by
  obtain ⟨-, -, -, -, -, hcfg, -, htrace⟩ := feed_frame s b
  obtain ⟨hacc, hsaw, hsynced, -⟩ := resolve_frame (feed s b).1 (feed s b).2
  obtain ⟨hres, -⟩ := resolve_reported (feed s b).1 (feed s b).2
  exact ⟨hacc, hsaw, hsynced, by rw [hres, hcfg, htrace]⟩

/-- Settles O59: `FEED` agrees on two states that differ in the aggregator only, and the event is read off its result and the
configuration. -/
theorem aggregatorDoesNotInfluenceEvents : Obligations.AggregatorDoesNotInfluenceEvents := by
  intro s b batch speed valid cycles hfault
  let u : State := { s with batch := batch, speed := speed, speedValid := valid, cycles := cycles }
  obtain ⟨hevent, hacc, hsaw, hsynced⟩ := feed_congr (s := s) (u := u) b rfl rfl rfl
  obtain ⟨ha, hw, hy, ht⟩ := resolve_feed s b
  obtain ⟨ha', hw', hy', ht'⟩ := resolve_feed u b
  refine ⟨_, _, (execRx_eq_next_iff b s _).2 ⟨hfault, rfl⟩, (execRx_eq_next_iff b u _).2 ⟨hfault, rfl⟩, ?_⟩
  rw [ha, hw, hy, ht, ha', hw', hy', ht', hevent]
  exact ⟨hacc, hsaw, hsynced, rfl⟩

end Sys2Proof.Safety
end

section
/-! PROOFS. What the stages behind the synchronizer read: the configuration, the aggregator and the trace, and nothing of the
synchronizer or of the environment's queue (R20, R191). -/

namespace Sys2Proof.Machine

/-- What `resolve` does not read it carries over, whatever its value. -/
theorem resolve_withUnread (s : State) (e : FrameEvent) (acc : List Byte) (saw synced : Bool) (queue : List Transaction) :
    resolve { s with acc := acc, saw := saw, synced := synced, pending := queue } e =
      { resolve s e with acc := acc, saw := saw, synced := synced, pending := queue } := by
  rcases e with _ | f | c
  · rfl
  · unfold resolve
    dsimp only
    cases chksumPasses s.cfg f <;> rfl
  · rfl

/-- `STEP(b)` is what the stages behind the synchronizer make of `b`'s FrameEvent, with the synchronizer's elements as `FEED`
leaves them. -/
theorem resolve_feed_eq (s : State) (b : Byte) :
    resolve (feed s b).1 (feed s b).2 = { resolve s (feed s b).2 with
      acc := (feed s b).1.acc, saw := (feed s b).1.saw, synced := (feed s b).1.synced, pending := s.pending } := by
  obtain ⟨hfault, hbatch, hspeed, hvalid, hcycles, hcfg, hpending, htrace⟩ := feed_frame s b
  have hfeed : (feed s b).1 = { s with acc := (feed s b).1.acc, saw := (feed s b).1.saw, synced := (feed s b).1.synced } :=
    State.ext_fields rfl rfl rfl hfault hbatch hspeed hvalid hcycles hcfg hpending htrace
  exact (congrArg (resolve · (feed s b).2) hfeed).trans (resolve_withUnread s _ _ _ _ s.pending)

theorem execRx_of_healthy (b : Byte) (s : State) (h : s.fault = false) :
    execRx b s = .next (resolve (feed s b).1 (feed s b).2) :=
  (execRx_eq_next_iff b s _).2 ⟨h, rfl⟩

/-- `RX` does the same whatever waits behind the byte (R190; log 1). -/
theorem execRx_withPending (b : Byte) (s t : State) (queue : List Transaction) (h : execRx b s = .next t) :
    execRx b { s with pending := queue } = .next { t with pending := queue } := by
  obtain ⟨hfault, rfl⟩ := (execRx_eq_next_iff b s t).1 h
  obtain ⟨hevent, hacc, hsaw, hsynced⟩ := feed_congr (s := s) (u := { s with pending := queue }) b rfl rfl rfl
  rw [execRx_of_healthy b { s with pending := queue } hfault, resolve_feed_eq s b, resolve_feed_eq { s with pending := queue } b,
    hevent, hacc, hsaw, hsynced, resolve_withUnread s _ s.acc s.saw s.synced queue]

end Sys2Proof.Machine
end

section
/-! PROOFS. The bounded accumulator of R57 beside the normative one: every byte keeps `Tracks` and gives the same FrameEvent. -/

namespace Sys2Proof.Machine

theorem BoundedSync.frame_toList {cap : Nat} (x : BoundedSync cap) (h : 46 ≤ cap) :
    (x.frame h).toList = x.buf.toList.take 45 := by
  refine List.ext_getElem (by simp; omega) fun i _ _ => ?_
  simp [BoundedSync.frame]

end Sys2Proof.Machine

namespace Sys2Proof.Safety

open Sys2Proof.Machine

section Simulation

variable {cap : Nat} {x : BoundedSync cap} {s : State}

/-- While the counter has not saturated the new byte goes to its own address; after that neither side keeps it (R57). -/
theorem tracks_append (b : Byte) (hx : Tracks x s) : Tracks (x.append b) (s.append b (sawAfter b)) := by
  obtain ⟨hn, -, hsynced, hbuf⟩ := hx
  refine ⟨?_, rfl, hsynced, fun i hi => ?_⟩
  · simp only [BoundedSync.append_n, State.append_acc, List.length_append, List.length_singleton]
    omega
  simp only [State.append_acc, List.length_append, List.length_singleton] at hi ⊢
  rw [x.append_buf_getElem? b i]
  by_cases hnew : i = s.acc.length
  · have hcount : i = x.n ∧ x.n < cap := by omega
    rw [if_pos hcount, hnew, List.getElem?_concat_length]
  · have hother : ¬(i = x.n ∧ x.n < cap) := by omega
    rw [if_neg hother, hbuf i (by omega), List.getElem?_append_left (by omega)]

/-- A boundary leaves an empty accumulator, of which the buffer need hold nothing (log 16). -/
theorem tracks_close (hacc : s.acc = []) (hsaw : s.saw = false) (hsynced : s.synced = true) : Tracks x.close s :=
  ⟨by simp [hacc], hsaw.symm, hsynced.symm, by simp [hacc]⟩

/-- The counter reads 46 exactly when the candidate has 45 bytes: it saturates at `cap + 1`, above 46. -/
theorem n_eq_46_iff_of_tracks (h : 46 ≤ cap) (hx : Tracks x s) : x.n = 46 ↔ (candidate s.acc).length = 45 := by
  obtain ⟨hn, -⟩ := hx
  rw [candidate_length]
  omega

/-- With 46 bytes held, the frame read off the buffer is the candidate: neither side has dropped a byte (R57, R59). -/
theorem frame_toList_of_tracks (h : 46 ≤ cap) (hx : Tracks x s) (hlen : (candidate s.acc).length = 45) :
    (x.frame h).toList = candidate s.acc := by
  obtain ⟨-, -, -, hbuf⟩ := hx
  rw [candidate_length] at hlen
  rw [x.frame_toList h, candidate, hlen]
  refine List.ext_getElem? fun i => ?_
  rw [List.getElem?_take, List.getElem?_take]
  split
  · exact hbuf i (by omega)
  · rfl

/-- The saturating counter and the flags decide the boundary as the accumulator does, in the order of R217. -/
theorem boundary_event_of_tracks (h : 46 ≤ cap) (hx : Tracks x s) :
    (boundary s).2 = if x.synced then (if x.n = 46 then .ready (x.frame h) else .discarded .length) else .discarded .unsync := by
  have hn := n_eq_46_iff_of_tracks h hx
  have ⟨_, _, hsynced, _⟩ := hx
  obtain ⟨hs, e⟩ | ⟨hs, hlen, e⟩ | ⟨hs, f, hf, e⟩ := boundary_cases s
  · simp [e, hsynced, hs]
  · simp [e, hsynced, hs, hn, hlen]
  · have hlen : (candidate s.acc).length = 45 := by rw [← hf, Vector.length_toList]
    have hframe : x.frame h = f := Vector.toList_inj.1 ((frame_toList_of_tracks h hx hlen).trans hf.symm)
    simp [e, hsynced, hs, hn, hlen, hframe]

/-- The simulation step: every byte keeps the correspondence and gives the same FrameEvent (R57, R103). -/
theorem tracks_boundedFeed (h : 46 ≤ cap) (b : Byte) (hx : Tracks x s) :
    Tracks (boundedFeed h x b).1 (feed s b).1 ∧ (boundedFeed h x b).2 = (feed s b).2 := by
  have ⟨_, hsaw, _, _⟩ := hx
  cases hc : closesPair s.saw b
  · rw [feed_append s b hc, boundedFeed_append x b h (by rwa [hsaw])]
    exact ⟨tracks_append b hx, rfl⟩
  · rw [feed_boundary s b hc, boundedFeed_boundary x b h (by rwa [hsaw])]
    obtain ⟨hacc, hw, hy, -⟩ := boundary_frame s
    exact ⟨tracks_close hacc hw hy, (boundary_event_of_tracks h hx).symm⟩

theorem boundedRun_events (h : 46 ≤ cap) (bs : List Byte) (hx : Tracks x s) : (boundedRun h x bs).2 = (runFeed s bs).2 := by
  induction bs generalizing x s with
  | nil => rfl
  | cons b bs ih =>
    obtain ⟨hnext, hevent⟩ := tracks_boundedFeed h b hx
    simp only [boundedRun, runFeed, hevent, ih hnext]

end Simulation

/-- At reset nothing is held, so the buffer may hold anything (R38; log 16). -/
theorem tracks_reset {cap : Nat} (buf : Vector Byte cap) : Tracks ⟨buf, 0, false, false⟩ State.reset :=
  ⟨by simp [State.reset], rfl, rfl, by simp [State.reset]⟩

/-- A stream from reset gives the events of `RUN` under every `ACC_CAP` (R30, R39). -/
theorem eventsUnder_eq_runFeed (cfg : Config.Params) (fill : (cap : Nat) → Vector Byte cap) (bs : List Byte) :
    eventsUnder cfg fill bs = (runFeed State.reset bs).2 := by
  unfold eventsUnder
  split
  · rfl
  · exact boundedRun_events _ bs (tracks_reset _)

/-- Settles O57: the simulation step for one byte, the stages behind it, which see nothing of the accumulator, and the streams
from reset. -/
theorem boundedAccumulatorRefines : Obligations.BoundedAccumulatorRefines := by
  refine ⟨fun cap h x s b hx => ?_, eventsUnder_eq_runFeed⟩
  obtain ⟨hnext, hevent⟩ := tracks_boundedFeed h b hx
  refine ⟨hnext, hevent, fun hfault => ⟨_, (execRx_eq_next_iff b s _).2 ⟨hfault, rfl⟩, ?_⟩⟩
  rw [boundedStep, hevent, resolve_feed_eq]
  exact ⟨hnext, rfl, rfl, rfl, rfl, rfl⟩

end Sys2Proof.Safety
end

section
/-! PROOFS. Bytes in the pending queue: the machine takes them one at a time (R60, R190), so as many steps as there are bytes do
what receiving the chunk does. -/

namespace Sys2Proof.Machine

/-- With a transaction pending, a step is the instruction it decodes to, on the state without it (R190; log 1). -/
theorem step_cons (s : State) (x : Transaction) (rest : List Transaction) (h : s.pending = x :: rest) :
    step s = exec (decodeTransaction s.saw x) { s with pending := rest } := by
  simp [step, fetch_cons s x rest h]

/-- Settles O7: each transaction is the head of `pending`, and a byte's instruction is the row that `decode` selects by `saw`. -/
theorem stepRunsDecodedInstruction : Obligations.StepRunsDecodedInstruction := by
  refine fun s rest => ⟨fun b i hpending hdecode => ?_, step_cons s _ rest, step_cons s _ rest, step_cons s _ rest,
    step_cons s _ rest, fun hpending => ?_⟩
  · cases hdecode
    exact step_cons s _ rest hpending
  · simp [step, fetch_nil s hpending]

/-- With a byte pending, a step is `RX` of it (R100, R190). -/
theorem step_rx (s : State) (b : Byte) (rest : List Transaction) (h : s.pending = .rx b :: rest) :
    step s = execRx b { s with pending := rest } :=
  (step_cons s _ rest h).trans (exec_decodeByte b { s with pending := rest })

/-- As many steps as bytes pending receive them in order, and leave the rest of the queue (R60, R109). -/
theorem run_bytes_eq_receive (bs : List Byte) (s : State) (hfault : s.fault = false) :
    core.run bs.length { s with pending := bs.map Transaction.rx ++ s.pending } = receive bs s := by
  induction bs generalizing s with
  | nil => rfl
  | cons b bs ih =>
    have hb := execRx_of_healthy b s hfault
    have hkept := Safety.execRx_kept b s _ hb
    rw [receive_cons b bs s _ hb, ← ih _ (hkept.fault.trans hfault), hkept.pending]
    exact run_succ_of_next _ _ _ ((step_rx _ b _ rfl).trans (execRx_withPending b s _ _ hb))

/-- Settles O55: the 47 bytes of the frame are pending, and the row receives exactly them. -/
theorem frameRowIsItsBytes : Obligations.FrameRowIsItsBytes := fun s p hfault => by
  have hrun := run_bytes_eq_receive (wireBytes (encodePacket p)) s hfault
  rw [wireBytes_length] at hrun
  exact hrun

end Sys2Proof.Machine

namespace Sys2Proof.Safety

open Sys2Proof.Machine

/-- The two states carry the same synchronizer (R20, R109). -/
structure SameSync (s t : State) : Prop where
  acc : t.acc = s.acc
  saw : t.saw = s.saw
  synced : t.synced = s.synced

/-- The pipeline's answer to a list of FrameEvents: the trace gains their reported events, the batch what those release, and
a cycle is counted for each that is not NONE (R191). -/
structure Reports (s : State) (events : List FrameEvent) (t : State) : Prop where
  cfg : t.cfg = s.cfg
  trace : t.trace = s.trace ++ events.map fun e => .event (reported s.cfg e)
  cycles : t.cycles = s.cycles + (events.filter fun e => decide (e ≠ .none)).length
  batch : t.batch = s.batch ++ events.flatMap fun e => released (reported s.cfg e)

theorem Reports.nil (s : State) : Reports s [] s := ⟨rfl, by simp, rfl, by simp⟩

theorem Reports.append {s t u : State} {es fs : List FrameEvent} (hst : Reports s es t) (htu : Reports t fs u) :
    Reports s (es ++ fs) u where
  cfg := htu.cfg.trans hst.cfg
  trace := by simp [htu.trace, hst.trace, hst.cfg]
  cycles := by simp [htu.cycles, hst.cycles, Nat.add_assoc]
  batch := by simp [htu.batch, hst.batch, hst.cfg]

/-- One byte reports its own FrameEvent. -/
theorem reports_resolve_feed (s : State) (b : Byte) :
    Reports s [(feed s b).2] (resolve (feed s b).1 (feed s b).2) := by
  obtain ⟨-, hbatch, -, -, hcycles, hcfg, -, htrace⟩ := feed_frame s b
  obtain ⟨-, -, -, -, hcfg', -⟩ := resolve_frame (feed s b).1 (feed s b).2
  obtain ⟨htrace', hbatch', hcycles'⟩ := resolve_reported (feed s b).1 (feed s b).2
  refine ⟨hcfg'.trans hcfg, by simp [htrace', htrace, hcfg], ?_, by simp [hbatch', hbatch, hcfg]⟩
  rw [hcycles', hcycles]
  by_cases he : (feed s b).2 = .none <;> simp [he]

/-- A healthy block receives every chunk; the synchronizer goes on as `RUN` and the events are those of `RUN` (R109, R191), from
any state that carries the same synchronizer. -/
theorem receive_eq_runFeed (bs : List Byte) (s u : State) (hfault : s.fault = false) (hsync : SameSync s u) :
    ∃ t, receive bs s = .next t ∧ SameSync (runFeed u bs).1 t ∧ Reports s (runFeed u bs).2 t := by
  induction bs generalizing s u with
  | nil => exact ⟨s, rfl, ⟨hsync.acc.symm, hsync.saw.symm, hsync.synced.symm⟩, .nil s⟩
  | cons b bs ih =>
    have hb := execRx_of_healthy b s hfault
    obtain ⟨hevent, hacc, hsaw, hsynced⟩ := feed_congr b hsync.acc hsync.saw hsync.synced
    obtain ⟨ha, hw, hy, -⟩ := resolve_feed s b
    obtain ⟨t, ht, hrun, hreports⟩ := ih _ (feed u b).1 ((execRx_kept b s _ hb).fault.trans hfault)
      ⟨hacc.trans ha.symm, hsaw.trans hw.symm, hsynced.trans hy.symm⟩
    refine ⟨t, (receive_cons b bs s _ hb).trans ht, hrun, ?_⟩
    have hfirst := reports_resolve_feed s b
    rw [runFeed, hevent]
    exact hfirst.append hreports

/-- Settles O60: the steps receive the bytes, and what receiving them does is `RUN`. -/
theorem streamStepsAreRun : Obligations.StreamStepsAreRun := by
  intro s bs rest hfault hpending
  obtain ⟨t, ht, hsync, hreports⟩ := receive_eq_runFeed bs { s with pending := rest } s hfault ⟨rfl, rfl, rfl⟩
  have hkept := receive_kept bs _ t ht
  refine ⟨t, ?_, hkept.pending, hkept.fault.trans hfault, hkept.cfg, hsync.acc, hsync.saw, hsync.synced, hreports.trace,
    hreports.cycles, hreports.batch⟩
  have hrun := run_bytes_eq_receive bs { s with pending := rest } hfault
  rw [ht, ← hpending] at hrun
  exact hrun

end Sys2Proof.Safety
end

section
/-! PROOFS. The bytes of ENCODE at their offsets (R73, R74), and DECODE of them (R129). -/

namespace Sys2Proof.Machine

/-- A field of two bytes as a number, low byte first (R53). -/
theorem memRead2_toNat (f : RawFrame) (o : Nat) (h : o ≤ 43) :
    (memRead2 f o h).toNat = f[o].toNat + 256 * f[o + 1].toNat := le16_toNat _ _

theorem memRead2_of_bytes {f : RawFrame} {o : Nat} (h : o ≤ 43) {v : U16} (hlo : f[o] = loByte v)
    (hhi : f[o + 1] = hiByte v) : memRead2 f o h = v := by
  rw [memRead2, hlo, hhi, le16_loByte_hiByte]

/-- Byte `k` of sample `i` stands at offset `3 * i + k` of the sample area (R74). -/
theorem flatMap_sampleBytes_getElem? (xs : List Sample) (i k : Nat) (hk : k < 3) :
    (xs.flatMap sampleBytes)[3 * i + k]? = xs[i]?.bind fun x => (sampleBytes x)[k]? := by
  induction xs generalizing i with
  | nil => simp
  | cons x xs ih =>
    have hlen : (sampleBytes x).length = 3 := rfl
    rw [List.flatMap_cons]
    cases i with
    | zero => simp [List.getElem?_append_left, hlen, hk]
    | succ i =>
      rw [List.getElem?_append_right (by omega), hlen, show 3 * (i + 1) + k - 3 = 3 * i + k by omega, ih,
        List.getElem?_cons_succ]

section Offsets

variable (p : Packet)

theorem samples_flatMap_sampleBytes_length : (p.samples.toList.flatMap sampleBytes).length = 36 := by
  simp [List.length_flatMap, sampleBytes]

/-- ENCODE puts byte `k` of sample `i` at offset `4 + 3 * i + k` (R74). -/
theorem encodePacket_sample (i : Fin 12) (k : Nat) (hk : k < 3) :
    (encodePacket p)[4 + 3 * i.val + k] = (sampleBytes p.samples[i])[k]'hk := by
  have harea := samples_flatMap_sampleBytes_length p
  have hbyte : (payloadBytes p)[4 + (3 * i.val + k)]? = (sampleBytes p.samples[i])[k]? := by
    rw [payloadBytes, List.append_assoc, List.getElem?_append_right (by simp), List.getElem?_append_left
      (by simp only [harea, List.length_cons, List.length_nil]; omega)]
    simp [flatMap_sampleBytes_getElem? _ _ _ hk]
  rw [← Nat.add_assoc] at hbyte
  exact Option.some.inj ((List.getElem?_eq_getElem _).symm.trans (hbyte.trans (List.getElem?_eq_getElem hk)))

/-- ENCODE puts the end angle, the timestamp and the checksum from offset 40 on (R73). -/
theorem encodePacket_back (k : Nat) (hk : k < 5) : (encodePacket p)[40 + k] =
    [loByte p.lsaRaw, hiByte p.lsaRaw, loByte p.ts, hiByte p.ts, p.chk][k] := by
  have hfront : ([loByte p.speedRaw, hiByte p.speedRaw, loByte p.fsaRaw, hiByte p.fsaRaw] ++
      p.samples.toList.flatMap sampleBytes).length = 40 := by
    rw [List.length_append, samples_flatMap_sampleBytes_length]
    rfl
  show (payloadBytes p)[40 + k]'(by rw [payloadBytes_length]; omega) = _
  simp only [payloadBytes, List.getElem_append_right (hfront.trans_le (Nat.le_add_right 40 k)), hfront,
    Nat.add_sub_cancel_left]

theorem sampleField_encodePacket (i : Fin 12) : sampleField (encodePacket p) i = p.samples[i] := by
  have hdist : distField (encodePacket p) i = p.samples[i].distRaw :=
    memRead2_of_bytes _ (encodePacket_sample p i 0 (by decide)) (encodePacket_sample p i 1 (by decide))
  exact Sample.ext hdist (encodePacket_sample p i 2 (by decide))

/-- DECODE after ENCODE is the packet, field by field (R129). -/
theorem decodePacket_encodePacket : decodePacket (encodePacket p) = p := by
  have hspeed : speedField (encodePacket p) = p.speedRaw := memRead2_of_bytes _ rfl rfl
  have hfsa : fsaField (encodePacket p) = p.fsaRaw := memRead2_of_bytes _ rfl rfl
  have hlsa : lsaField (encodePacket p) = p.lsaRaw :=
    memRead2_of_bytes _ (encodePacket_back p 0 (by decide)) (encodePacket_back p 1 (by decide))
  have hts : tsField (encodePacket p) = p.ts :=
    memRead2_of_bytes _ (encodePacket_back p 2 (by decide)) (encodePacket_back p 3 (by decide))
  have hsamples : Vector.ofFn (sampleField (encodePacket p)) = p.samples := Vector.ext fun i hi =>
    (Vector.getElem_ofFn hi).trans (sampleField_encodePacket p ⟨i, hi⟩)
  exact Packet.ext hspeed hfsa hsamples hlsa hts (encodePacket_back p 4 (by decide))

theorem payloadBytes_getLast? : (payloadBytes p).getLast? = some p.chk := by
  rw [payloadBytes, List.getLast?_append]
  rfl

end Offsets

end Sys2Proof.Machine
end

section
/-! PROOFS. The decoder on every word: one byte by the table of R72, 47 bytes by R70, any other length refused (R71). -/

namespace Sys2Proof

open Sys2Proof.Machine

theorem isDataByte_iff (b : Byte) : isDataByte b = true ↔ b ≠ Config.hdr ∧ b ≠ Config.ver := by
  simp [isDataByte]

/-- Settles O3: a byte row is the row that the table of R72 gives its byte in that state of `saw`, and FRAME comes back because
DECODE inverts ENCODE; the other rows have no bytes (R82). -/
theorem decodeInvertsEncode : Obligations.DecodeInvertsEncode := by
  intro i saw bs hwf henc hrx hseek hbound
  cases i with
  | rx b => exact absurd rfl (hrx b)
  | rxHdr => cases henc; rfl
  | rxVerSeeking => cases henc; cases hseek rfl; rfl
  | rxVerBoundary => cases henc; cases hbound rfl; rfl
  | rxDat b =>
    cases henc
    obtain ⟨hhdr, hver⟩ := (isDataByte_iff b).1 hwf
    rw [decode_singleton, decodeByte_data saw b hhdr hver]
  | frame p =>
    cases henc
    rw [decode_wireBytes, decodePacket_encodePacket]
  | _ => cases henc

/-- Settles O4: the word is the wire form of its payload, and each field of DECODE reads its bytes low byte first. -/
theorem frameWordFields : Obligations.FrameWordFields := by
  intro saw f
  refine ⟨decodePacket f, decode_wireBytes saw f, memRead2_toNat f 0 (by decide), memRead2_toNat f 2 (by decide),
    fun i => ?_, memRead2_toNat f 40 (by decide), memRead2_toNat f 42 (by decide), rfl⟩
  have hsample : (decodePacket f).samples[i] = sampleField f i := Vector.getElem_ofFn i.isLt
  have hhigh : 5 + 3 * i.val = 4 + 3 * i.val + 1 := by omega
  have hconf : 6 + 3 * i.val = 4 + 3 * i.val + 2 := by omega
  simp only [hsample, hhigh, hconf]
  exact ⟨memRead2_toNat f (4 + 3 * i.val) (by omega), rfl⟩

/-- A word of two or more bytes whose payload is not 45 bytes long has no format (R71). -/
theorem decode_noSuchLength (saw : Bool) (b0 b1 : Byte) (payload : List Byte) (h : payload.length ≠ 45) :
    decode saw (b0 :: b1 :: payload) = .error (.noSuchLength (payload.length + 2)) := by
  simp [decode, decodeWire, (rawFrame?_eq_none_iff payload).2 h]

/-- A payload behind two bytes other than the sync pair is no FRAME (R70). -/
theorem decode_noSyncPair (saw : Bool) (b0 b1 : Byte) (f : RawFrame) (h : ¬(b0 = Config.hdr ∧ b1 = Config.ver)) :
    decode saw (b0 :: b1 :: f.toList) = .error .noSyncPair := by
  simp only [decode, decodeWire, (rawFrame?_eq_some_iff f.toList f).2 rfl, if_neg h]

/-- Settles O5, by the number of bytes: none, one, or two and a payload. -/
theorem otherWordsRejected : Obligations.OtherWordsRejected := by
  intro saw bs
  match bs with
  | [] => exact ⟨fun _ _ => ⟨_, rfl⟩, nofun⟩
  | [b] => exact ⟨fun hlen => absurd rfl hlen, nofun⟩
  | b0 :: b1 :: payload =>
    refine ⟨fun _ hlen => ⟨_, decode_noSuchLength saw b0 b1 payload (by simpa using hlen)⟩, fun hlen hpair => ?_⟩
    exact decode_noSyncPair saw b0 b1 ⟨payload.toArray, by simpa using hlen⟩ (by simpa using hpair)

/-- Settles O1: the decoder evaluates on each of the seven words. -/
theorem tableWordsDecode : Obligations.TableWordsDecode := ⟨rfl, rfl, rfl, rfl, rfl, rfl, rfl⟩

/-- Settles O2: in each case of the byte-class table the row is fixed, so every `↔` compares constructors and bytes. -/
theorem everyByteIsOneRow : Obligations.EveryByteIsOneRow := by
  intro saw b
  refine ⟨decodeByte saw b, decode_singleton saw b, ?_⟩
  obtain ⟨rfl, hd⟩ | ⟨rfl, rfl, hd⟩ | ⟨rfl, rfl, hd⟩ | ⟨hhdr, hver, hd⟩ := decodeByte_cases saw b <;> rw [hd]
  · simp [Instr.wf]
  · simp [Instr.wf]
  · simp [Instr.wf]
  · exact ⟨(isDataByte_iff b).2 ⟨hhdr, hver⟩, iff_of_false nofun hhdr, iff_of_false nofun fun h => hver h.1,
      iff_of_false nofun fun h => hver h.1, iff_of_true rfl ⟨hhdr, hver⟩⟩

end Sys2Proof
end

section
/-! PROOFS. The byte rows outside their condition (log 6), the events of the Byte Source's steps (R78), and the FRAME row: its
pair is a boundary (R103), and a payload without a pair is appended whole (R107). -/

namespace Sys2Proof.Safety

open Sys2Proof.Machine

theorem execRxDat_of_not_datSelected (b : Byte) (s : State) (hfault : s.fault = false) (hb : datSelected b = false) :
    execRxDat b s = .refused .rowNotSelected := by
  rw [execRxDat, whileHealthy_of_healthy s _ hfault, if_neg (Bool.eq_false_iff.1 hb)]

/-- Settles O12: the block is healthy, so each row comes to its own condition of R72, which is false. -/
theorem unselectedRowsRefused : Obligations.UnselectedRowsRefused := by
  intro s hfault
  refine ⟨fun hsaw => ?_, fun hsaw => ?_, execRxDat_of_not_datSelected _ s hfault rfl,
    execRxDat_of_not_datSelected _ s hfault rfl⟩
  · show execRxVerSeeking s = _
    rw [execRxVerSeeking, whileHealthy_of_healthy s _ hfault, if_pos hsaw]
  · show execRxVerBoundary s = _
    rw [execRxVerBoundary, whileHealthy_of_healthy s _ hfault, if_neg (Bool.eq_false_iff.1 hsaw)]

/-- A byte returns one event, which is never that of a failed source (R78, R191). -/
theorem execRx_event (b : Byte) (s t : State) (h : execRx b s = .next t) :
    ∃ e, t.trace = s.trace ++ [.event e] ∧ (∀ c, e ≠ .fatal c) ∧ e ≠ .discard .srcFail := by
  obtain ⟨-, ⟨-, rfl⟩ | ⟨-, -, rfl⟩ | ⟨-, -, -, rfl⟩ | ⟨-, -, f, -, -, rfl⟩ | ⟨-, -, f, -, -, rfl⟩⟩ :=
    execRx_cases b s t h
  all_goals exact ⟨_, rfl, nofun, nofun⟩

/-- Settles O13: the codes are read off their tables; SRC_FAIL returns its own event, and a byte never that one. -/
theorem oneEventPerStep : Obligations.OneEventPerStep := by
  refine ⟨rfl, fun _ _ => rfl, fun _ => rfl, fun _ => rfl, rfl, rfl, rfl, rfl, ?_⟩
  rintro s t i (rfl | ⟨b, rfl⟩) h
  · obtain ⟨-, rfl⟩ := (execSrcFail_eq_next_iff s t).1 h
    exact ⟨.fatal .srcFail, rfl, iff_of_true rfl rfl, fun c hc => (Event.fatal.inj hc).symm, nofun⟩
  · obtain ⟨e, htrace, hfatal, hdiscard⟩ := execRx_event b s t h
    exact ⟨e, htrace, iff_of_false (hfatal _) nofun, fun c hc => absurd hc (hfatal c), hdiscard⟩

/-- What the closing byte of a sync pair leaves, whatever the outcome of the boundary (R103, R191). -/
structure AfterBoundary (s t : State) : Prop where
  acc : t.acc = []
  saw : t.saw = false
  synced : t.synced = true
  cycles : t.cycles = s.cycles + 1
  batch : s.batch <+: t.batch
  trace : t.trace.length = s.trace.length + 1

theorem execRx_afterBoundary (b : Byte) (s t : State) (hclose : closesPair s.saw b = true) (h : execRx b s = .next t) :
    AfterBoundary s t := by
  obtain ⟨hopen, -⟩ | ⟨c, rfl⟩ | ⟨p, rfl⟩ := execRx_effects b s t h
  · exact absurd hclose (Bool.eq_false_iff.1 hopen)
  · exact ⟨rfl, rfl, rfl, rfl, List.prefix_rfl, by simp⟩
  · exact ⟨rfl, rfl, rfl, rfl, List.prefix_append _ _, by simp⟩

/-- The pair is received in every healthy state: `HDR` is appended, whatever the flag was, and `VER` closes (R101, R103). -/
theorem receive_syncPair (s : State) (hfault : s.fault = false) :
    ∃ t, receive [Config.hdr, Config.ver] s = .next t ∧ AfterBoundary ((s.append Config.hdr true).emit (.event .none)) t := by
  have hhdr : execRx Config.hdr s = .next ((s.append Config.hdr true).emit (.event .none)) :=
    (execRxHdr_eq_execRx s).symm.trans ((execRxHdr_eq_next_iff s _).2 ⟨hfault, rfl⟩)
  have hver := execRx_of_healthy Config.ver ((s.append Config.hdr true).emit (.event .none)) hfault
  exact ⟨_, by rw [receive_cons _ _ _ _ hhdr, receive_singleton, hver], execRx_afterBoundary _ _ _ rfl hver⟩

/-- R26 as an equation: the flag is read off the accumulator. -/
theorem saw_eq_of_sawLaw {s : State} (h : SawLaw s) : s.saw = decide (s.acc.getLast? = some Config.hdr) := by
  rw [Bool.eq_iff_iff, decide_eq_true_iff]
  exact h

/-- Under R26, bytes that complete no pair with the accumulator are all appended and give no FrameEvent (R100, R107). -/
theorem runFeed_of_noPair (bs : List Byte) (s : State) (hsaw : SawLaw s) (hpair : hasPair (s.acc ++ bs) = false) :
    runFeed s bs = ({ s with acc := s.acc ++ bs, saw := decide ((s.acc ++ bs).getLast? = some Config.hdr) },
      List.replicate bs.length .none) := by
  induction bs generalizing s with
  | nil =>
    rw [List.append_nil, ← saw_eq_of_sawLaw hsaw]
    rfl
  | cons b bs ih =>
    have hsplit : s.acc ++ b :: bs = (s.append b (sawAfter b)).acc ++ bs := by simp
    rw [hsplit] at hpair ⊢
    have hopen : closesPair s.saw b = false := by
      have hnext := hasPair_of_append _ _ hpair
      rw [State.append_acc, hasPair_append_singleton, ← saw_eq_of_sawLaw hsaw] at hnext
      exact (Bool.or_eq_false_iff.1 hnext).2
    rw [runFeed, feed_append s b hopen, ih _ (sawLaw_kept.append s b hopen hsaw) hpair]
    rfl

/-- `RUN` gives one FrameEvent for each byte (R109). -/
theorem runFeed_length (bs : List Byte) (s : State) : (runFeed s bs).2.length = bs.length := by
  induction bs generalizing s with
  | nil => rfl
  | cons b bs ih => simp [runFeed, ih]

/-- Settles O54: the pair leaves an empty accumulator and one cycle more, and the 45 payload bytes go on from there as `RUN`
(R70, R103); without a pair in the payload they are all appended, and the flag is that of the last one, the checksum. -/
theorem frameRowCompletes : Obligations.FrameRowCompletes := by
  intro s p hfault
  obtain ⟨u, hu, hclosed⟩ := receive_syncPair s hfault
  have hpairKept := receive_kept _ s u hu
  obtain ⟨t, ht, ⟨hacc, hsaw, -⟩, hreports⟩ :=
    receive_eq_runFeed (encodePacket p).toList u u (hpairKept.fault.trans hfault) ⟨rfl, rfl, rfl⟩
  have hpayloadKept := receive_kept _ u t ht
  have hkept := hpairKept.trans hpayloadKept
  refine ⟨t, (receive_append _ _ s u hu).trans ht, hkept.fault.trans hfault, hpayloadKept.synced hclosed.synced, hkept.cfg,
    hkept.pending, ?_, ?_, ?_, fun hpair => ?_⟩
  · simp [hreports.trace, runFeed_length, hclosed.trace, payloadBytes_length]
  · rw [hreports.batch]
    exact hclosed.batch.trans (List.prefix_append _ _)
  · rw [hreports.cycles, hclosed.cycles]
    exact Nat.le_add_right _ _
  · have hrun := runFeed_of_noPair (encodePacket p).toList u (sawLaw_of_acc_nil hclosed.acc hclosed.saw)
      (by rwa [hclosed.acc])
    have hcycles := hreports.cycles
    simp only [hrun, hclosed.acc, List.nil_append] at hacc hsaw hcycles
    exact ⟨hacc, by simp [hsaw, payloadBytes_getLast?], by simp [hcycles, hclosed.cycles]⟩

end Sys2Proof.Safety
end

section
/-! PROOFS. The byte rows as `RX` and whole (R100 to R104), the boundary's four outcomes with the stages behind it (R103, R191),
and the operations that only read. -/

namespace Sys2Proof.Machine

/-- Settles O8: the decoder's table and the `if`-chain select the same row, and that row is `RX`. -/
theorem rxIsItsByteRow : Obligations.RxIsItsByteRow := by
  intro b s
  have hrow : exec (.rx b) s = exec (decodeByte s.saw b) s := (exec_decodeByte b s).symm
  obtain ⟨rfl, hd⟩ | ⟨rfl, hsaw, hd⟩ | ⟨rfl, hsaw, hd⟩ | ⟨hhdr, hver, hd⟩ := decodeByte_cases s.saw b <;>
    rw [hrow, hd]
  · exact (if_pos rfl).symm
  · simp [hsaw]
  · simp [hsaw]
  · rw [if_neg hhdr, if_neg fun h => hver h.1, if_neg fun h => hver h.1]

/-- Settles O10: under the condition that R72 gives it, each row appends its byte and returns NONE. -/
theorem appendRowsComplete : Obligations.AppendRowsComplete := fun s hfault =>
  ⟨(execRxHdr_eq_next_iff s _).2 ⟨hfault, rfl⟩,
    fun hsaw => (execRxVerSeeking_eq_next_iff s _).2 ⟨hfault, hsaw, rfl⟩,
    fun b hhdr hver => (execRxDat_eq_next_iff b s _).2 ⟨hfault, (datSelected_iff b).2 ⟨hhdr, hver⟩, rfl⟩⟩

theorem execRxVerBoundary_of_saw (s : State) (hfault : s.fault = false) (hsaw : s.saw = true) :
    execRxVerBoundary s = .next (resolve (boundary s).1 (boundary s).2) := by
  rw [execRxVerBoundary_eq_execRx s hsaw, execRx_of_healthy _ s hfault,
    feed_boundary s _ ((closesPair_iff _ _).2 ⟨hsaw, rfl⟩)]

theorem chksumPasses_eq_false_iff (cfg : Config.Params) (f : RawFrame) :
    chksumPasses cfg f = false ↔ cfg.checkEn = true ∧ chkOf cfg.chk (checkedBytes f) ≠ f[44] := by
  rw [← Bool.not_eq_true, chksumPasses_iff, not_or, Bool.not_eq_false]

/-- Settles O11: the boundary's event fixes what the stages behind it do, and a frame is split by its checksum (R217). -/
theorem boundaryOutcomes : Obligations.BoundaryOutcomes := by
  intro s hfault hsaw
  have hexec : exec .rxVerBoundary s = .next (resolve (boundary s).1 (boundary s).2) :=
    execRxVerBoundary_of_saw s hfault hsaw
  rw [hexec]
  refine ⟨fun hsynced => ?_, fun hsynced hlen => ?_, fun f hsynced hf => ⟨fun hfail => ?_, fun hpass => ?_⟩⟩
  · rw [boundary_unsynced s hsynced]
    rfl
  · rw [boundary_length s hsynced hlen]
    rfl
  · rw [boundary_ready s hsynced f hf, resolve_fail s.closeFrame f ((chksumPasses_eq_false_iff _ f).2 hfail)]
    rfl
  · rw [boundary_ready s hsynced f hf, resolve_pass s.closeFrame f ((chksumPasses_iff _ f).2 hpass)]
    rfl

/-- Settles O15: the verdict is `lenchk`, returned on the trace. -/
theorem lenchkVerdict : Obligations.LenchkVerdict := fun cand _ => ⟨lenchk cand, rfl, lenchk_iff cand⟩

/-- Settles O38: each of these operations answers its state with one value emitted. -/
theorem readingOperationsFrame : Obligations.ReadingOperationsFrame := by
  intro i s hreads
  obtain ⟨v, hv⟩ := Safety.exec_of_readsOnly i s hreads
  exact ⟨s.emit v, v, hv, rfl, rfl, rfl, rfl, rfl, rfl, rfl, rfl, rfl, rfl, rfl, fun _ => rfl⟩

end Sys2Proof.Machine
end

section
/-! PROOFS. `RUN` over the pieces of a stream (R109 to R111): chunks, a sync pair, the bytes between two pairs, and frames one
after the other; and the delivery of one frame by the machine's own steps. -/

namespace Sys2Proof.Safety

open Sys2Proof.Machine

theorem runFeed_append (as bs : List Byte) (s : State) :
    runFeed s (as ++ bs) =
      ((runFeed (runFeed s as).1 bs).1, (runFeed s as).2 ++ (runFeed (runFeed s as).1 bs).2) := by
  induction as generalizing s with
  | nil => rfl
  | cons a as ih => simp [runFeed, ih]

/-- Two states that carry the same synchronizer give the same FrameEvents and carry the same one on (R109). -/
theorem runFeed_congr (bs : List Byte) {s u : State} (h : SameSync s u) :
    (runFeed u bs).2 = (runFeed s bs).2 ∧ SameSync (runFeed s bs).1 (runFeed u bs).1 := by
  induction bs generalizing s u with
  | nil => exact ⟨rfl, h⟩
  | cons b bs ih =>
    obtain ⟨hevent, hacc, hsaw, hsynced⟩ := feed_congr b h.acc h.saw h.synced
    obtain ⟨hevents, hrun⟩ := ih ⟨hacc, hsaw, hsynced⟩
    exact ⟨congrArg₂ List.cons hevent hevents, hrun⟩

/-- Settles O50: `RUN` splits at the chunk's end, and `u` stands for `s` by the synchronizer they share. -/
theorem chunkingDoesNotMatter : Obligations.ChunkingDoesNotMatter := by
  intro s u as bs hacc hsaw hsynced
  obtain ⟨hevents, hrun⟩ := runFeed_congr (as ++ bs) (s := s) (u := u) ⟨hacc, hsaw, hsynced⟩
  rw [runFeed_append as bs s] at hevents hrun
  exact ⟨hevents, hrun.acc, hrun.saw, hrun.synced⟩

/-- The state just after a boundary (R103): empty accumulator, SEEKING, and a boundary seen. -/
structure JustClosed (s : State) : Prop where
  acc : s.acc = []
  saw : s.saw = false
  synced : s.synced = true

theorem JustClosed.sawLaw {s : State} (h : JustClosed s) : SawLaw s := sawLaw_of_acc_nil h.acc h.saw

theorem justClosed_boundary (s : State) : JustClosed (boundary s).1 := by
  obtain ⟨hacc, hsaw, hsynced, -⟩ := boundary_frame s
  exact ⟨hacc, hsaw, hsynced⟩

/-- A sync pair closes what the accumulator holds, in every state: its `HDR` is always appended, its `VER` is a boundary. -/
theorem runFeed_syncPair (s : State) :
    runFeed s [Config.hdr, Config.ver] =
      ((boundary (s.append Config.hdr true)).1, [.none, (boundary (s.append Config.hdr true)).2]) := by
  have hhdr : feed s Config.hdr = (s.append Config.hdr true, .none) := feed_append s _ (by simp [closesPair])
  have hver : feed (s.append Config.hdr true) Config.ver = boundary (s.append Config.hdr true) := feed_boundary _ _ rfl
  simp only [runFeed, hhdr, hver]

/-- The pair after 45 bytes reports them (R103). -/
theorem boundary_append_hdr_ready (s : State) (f : RawFrame) (hsynced : s.synced = true) (hacc : s.acc = f.toList) :
    (boundary (s.append Config.hdr true)).2 = .ready f := by
  rw [boundary_ready (s.append Config.hdr true) hsynced f (by simp [hacc])]

/-- The pair after any other number of bytes discards them (R103, R105). -/
theorem boundary_append_hdr_length (s : State) (hsynced : s.synced = true) (hlen : s.acc.length ≠ 45) :
    (boundary (s.append Config.hdr true)).2 = .discarded .length := by
  rw [boundary_length (s.append Config.hdr true) hsynced (by simpa using hlen)]

/-- From just after a boundary, bytes without the pair are all held and give no FrameEvent (R107). -/
theorem JustClosed.runFeed_noPair {s : State} (h : JustClosed s) (bs : List Byte) (hpair : hasPair bs = false) :
    (runFeed s bs).2 = List.replicate bs.length .none ∧ (runFeed s bs).1.acc = bs ∧ (runFeed s bs).1.synced = true := by
  rw [runFeed_of_noPair bs s h.sawLaw (by simpa [h.acc] using hpair)]
  exact ⟨rfl, by simp [h.acc], h.synced⟩

/-- Bytes without the pair and the pair that closes them give one FrameEvent, at its `VER`, and lead from boundary to
boundary. -/
theorem JustClosed.runFeed_closed {s : State} (h : JustClosed s) (bs : List Byte) (hpair : hasPair bs = false) :
    JustClosed (runFeed s (bs ++ [Config.hdr, Config.ver])).1 ∧
    (runFeed s (bs ++ [Config.hdr, Config.ver])).2 =
      List.replicate (bs.length + 1) .none ++ [(boundary ((runFeed s bs).1.append Config.hdr true)).2] := by
  rw [runFeed_append, runFeed_syncPair, (h.runFeed_noPair bs hpair).1, List.replicate_succ', List.append_assoc]
  exact ⟨justClosed_boundary _, rfl⟩

/-- Frames between pairs are reported one by one (R110). -/
theorem JustClosed.runFeed_frames {s : State} (h : JustClosed s) (fs : List RawFrame)
    (hpair : ∀ f ∈ fs, hasPair f.toList = false) :
    (runFeed s (fs.flatMap fun f => f.toList ++ [Config.hdr, Config.ver])).2 =
      fs.flatMap fun f => List.replicate 46 .none ++ [.ready f] := by
  induction fs generalizing s with
  | nil => rfl
  | cons f fs ih =>
    obtain ⟨hf, hfs⟩ := List.forall_mem_cons.1 hpair
    obtain ⟨-, hacc, hsynced⟩ := h.runFeed_noPair f.toList hf
    obtain ⟨hnext, hevents⟩ := h.runFeed_closed f.toList hf
    rw [List.flatMap_cons, runFeed_append, ih hnext hfs, hevents, boundary_append_hdr_ready _ f hsynced hacc,
      Vector.length_toList]
    rfl

/-- Settles O52: the first pair closes more than 45 bytes, and from that boundary on every frame is reported. -/
theorem garbageCostsOneFrame : Obligations.GarbageCostsOneFrame := by
  intro s p1 g later hsynced hsaw hacc hg hpair hlater
  have hs : JustClosed s := ⟨hacc, hsaw, hsynced⟩
  have hlen : (p1.toList ++ g).length = 45 + g.length := by simp
  have hgpos : 0 < g.length := List.length_pos_of_ne_nil hg
  obtain ⟨-, hheld, hheldSynced⟩ := hs.runFeed_noPair _ hpair
  obtain ⟨hnext, hevents⟩ := hs.runFeed_closed _ hpair
  rw [runFeed_append, hnext.runFeed_frames later hlater, hevents,
    boundary_append_hdr_length _ hheldSynced (by rw [hheld]; omega), hlen, Nat.add_right_comm]

/-- A frame on the wire first closes what was held before it, and is then held itself (R70, R110). -/
theorem runFeed_wireBytes (s : State) (f : RawFrame) (hpair : hasPair f.toList = false) :
    (runFeed s (wireBytes f)).2 =
      .none :: (boundary (s.append Config.hdr true)).2 :: List.replicate 45 .none ∧
    (runFeed s (wireBytes f)).1.acc = f.toList ∧ (runFeed s (wireBytes f)).1.synced = true := by
  obtain ⟨hevents, hheld⟩ := (justClosed_boundary (s.append Config.hdr true)).runFeed_noPair f.toList hpair
  rw [wireBytes, runFeed_append, runFeed_syncPair, hevents, Vector.length_toList]
  exact ⟨rfl, hheld⟩

/-- Frames back to back, after any state whose held bytes the first pair closes with `e`: each is reported at the pair of the
next one, and the last is held. -/
theorem runFeed_backToBack (frames : List RawFrame) (last : RawFrame) (s : State) (e : FrameEvent)
    (he : (boundary (s.append Config.hdr true)).2 = e) (hpair : ∀ f ∈ frames ++ [last], hasPair f.toList = false) :
    (runFeed s ((frames ++ [last]).flatMap wireBytes)).2 =
      (e :: frames.map FrameEvent.ready).flatMap (fun e => .none :: e :: List.replicate 45 .none) ∧
    (runFeed s ((frames ++ [last]).flatMap wireBytes)).1.acc = last.toList := by
  induction frames generalizing s e with
  | nil =>
    obtain ⟨hevents, hacc, -⟩ := runFeed_wireBytes s last (hpair last (by simp))
    rw [he] at hevents
    simpa using ⟨hevents, hacc⟩
  | cons f frames ih =>
    obtain ⟨hf, hfs⟩ := List.forall_mem_cons.1 hpair
    obtain ⟨hevents, hacc, hsynced⟩ := runFeed_wireBytes s f hf
    obtain ⟨hrest, hlast⟩ := ih _ _ (boundary_append_hdr_ready _ f hsynced hacc) hfs
    rw [List.cons_append, List.flatMap_cons, runFeed_append, hevents, hrest, he]
    exact ⟨rfl, hlast⟩

/-- Settles O51: at reset the first pair closes an empty candidate before any boundary. -/
theorem backToBackFrames : Obligations.BackToBackFrames := fun frames last hpair =>
  runFeed_backToBack frames last State.reset (.discarded .unsync) rfl hpair

/-- Under R26, a byte that completes no pair with the accumulator, as the first of several that do not, closes none. -/
theorem closesPair_of_noPair {s : State} {b : Byte} {bs : List Byte} (hsaw : SawLaw s)
    (hpair : hasPair (s.acc ++ b :: bs) = false) : closesPair s.saw b = false := by
  rw [List.append_cons] at hpair
  have hnext := hasPair_of_append _ _ hpair
  rw [hasPair_append_singleton, ← saw_eq_of_sawLaw hsaw] at hnext
  exact (Bool.or_eq_false_iff.1 hnext).2

/-- Under R26, a healthy block appends bytes that complete no pair with the accumulator, and returns NONE for each. -/
theorem receive_of_noPair (bs : List Byte) (s : State) (hfault : s.fault = false) (hsaw : SawLaw s)
    (hpair : hasPair (s.acc ++ bs) = false) :
    receive bs s = .next { s with acc := s.acc ++ bs, saw := decide ((s.acc ++ bs).getLast? = some Config.hdr),
                                  trace := s.trace ++ List.replicate bs.length (.event .none) } := by
  induction bs generalizing s with
  | nil =>
    simp only [List.append_nil, ← saw_eq_of_sawLaw hsaw, List.length_nil, List.replicate_zero]
    rfl
  | cons b bs ih =>
    have hopen := closesPair_of_noPair hsaw hpair
    have hb : execRx b s = .next ((s.append b (sawAfter b)).emit (.event .none)) := by
      rw [execRx_of_append b s hopen, whileHealthy_of_healthy s _ hfault]
    rw [List.append_cons] at hpair ⊢
    rw [receive_cons b bs s _ hb, ih ((s.append b (sawAfter b)).emit (.event .none)) hfault
      (sawLaw_kept.append s b hopen hsaw) hpair]
    simp [List.replicate_succ]

/-- In a healthy block the sync pair is its `HDR` appended and then the boundary row (R101, R103). -/
theorem receive_syncPair_eq (s : State) (hfault : s.fault = false) :
    receive [Config.hdr, Config.ver] s = execRxVerBoundary ((s.append Config.hdr true).emit (.event .none)) := by
  have hhdr := (execRxHdr_eq_next_iff s _).2 ⟨hfault, rfl⟩
  rw [execRxHdr_eq_execRx] at hhdr
  rw [receive_cons _ _ _ _ hhdr, receive_singleton, ← execRxVerBoundary_eq_execRx _ rfl]

/-- The state `s` with `bs` and a `HDR` received into its empty accumulator, each byte returned as NONE. -/
def aboutToClose (s : State) (bs : List Byte) : State :=
  { s with acc := bs ++ [Config.hdr], saw := true, trace := s.trace ++ List.replicate (bs.length + 1) (.event .none) }

/-- From just after a boundary, bytes without the pair and a closing pair are the boundary row on what the accumulator then
holds. -/
theorem receive_closed (s : State) (bs : List Byte) (hfault : s.fault = false) (hs : JustClosed s)
    (hpair : hasPair bs = false) : receive (bs ++ [Config.hdr, Config.ver]) s = exec .rxVerBoundary (aboutToClose s bs) := by
  have hreceive := receive_of_noPair bs s hfault hs.sawLaw (by simpa [hs.acc] using hpair)
  rw [receive_append _ _ _ _ hreceive, receive_syncPair_eq]
  · refine congrArg execRxVerBoundary ?_
    simp [aboutToClose, State.append, State.emit, hs.acc, List.replicate_succ']
  · exact hfault

/-- As many steps as bytes pending receive them, and leave the rest of the queue (R60, R190). -/
theorem run_pending_bytes (s : State) (bs : List Byte) (rest : List Transaction) (hfault : s.fault = false)
    (hpending : s.pending = bs.map Transaction.rx ++ rest) :
    core.run bs.length s = receive bs { s with pending := rest } := by
  have hrun := run_bytes_eq_receive bs { s with pending := rest } hfault
  rwa [← hpending] at hrun

/-- Settles O56: the 47 steps are the boundary row on the payload and its `HDR`, whose outcome is split by the checksum (R162). -/
theorem frameIsDelivered : Obligations.FrameIsDelivered := by
  intro s f rest hfault hsynced hsaw hacc hpair hpending
  have hrun := run_pending_bytes s _ rest hfault hpending
  rw [receive_closed { s with pending := rest } f.toList hfault ⟨hacc, hsaw, hsynced⟩ hpair, List.length_append,
    Vector.length_toList] at hrun
  have htrace : (aboutToClose s f.toList).trace = s.trace ++ List.replicate 46 (.event .none) := by
    rw [aboutToClose, Vector.length_toList]
  obtain ⟨-, -, hframe⟩ := boundaryOutcomes (aboutToClose { s with pending := rest } f.toList) hfault rfl
  obtain ⟨hfail, hpass⟩ := hframe f hsynced (candidate_append_singleton f.toList Config.hdr).symm
  cases hcheck : chksumPasses s.cfg f
  · have hdiffers := (chksumPasses_eq_false_iff s.cfg f).1 hcheck
    exact ⟨_, .discard .checksum, hrun.trans (hfail hdiffers), rfl, rfl, rfl, rfl, congrArg (· ++ _) htrace,
      .inl ⟨rfl, hdiffers.1, hdiffers.2, rfl⟩⟩
  · have hagrees := (chksumPasses_iff s.cfg f).1 hcheck
    exact ⟨_, _, hrun.trans (hpass hagrees), rfl, rfl, rfl, rfl, congrArg (· ++ _) htrace, .inr ⟨hagrees, rfl, rfl, rfl⟩⟩

end Sys2Proof.Safety
end

section
/-! PROOFS. The packet decoder: every byte of a payload stands in one field, so ENCODE inverts DECODE too (R129), and what DECODE
and its seven extractions return (R120 to R127). -/

namespace Sys2Proof.Machine

/-- An offset of the payload lies in the speed or the start angle, in one of the samples, or from the end angle on (R73, R74). -/
theorem payloadOffset_cases (o : Nat) (h : o < 45) :
    o < 4 ∨ (∃ (i : Fin 12) (k : Nat), k < 3 ∧ o = 4 + 3 * i.val + k) ∨ ∃ k, k < 5 ∧ o = 40 + k := by
  by_cases hfront : o < 4
  · exact .inl hfront
  · by_cases hsample : o < 40
    · exact .inr (.inl ⟨⟨(o - 4) / 3, by omega⟩, (o - 4) % 3, by omega, by dsimp only; omega⟩)
    · exact .inr (.inr ⟨o - 40, by omega, by omega⟩)

section Bytes

variable (f : RawFrame)

@[simp] theorem loByte_memRead2 (o : Nat) (h : o ≤ 43) : loByte (memRead2 f o h) = f[o] := loByte_le16 _ _

@[simp] theorem hiByte_memRead2 (o : Nat) (h : o ≤ 43) : hiByte (memRead2 f o h) = f[o + 1] := hiByte_le16 _ _

theorem decodePacket_samples (i : Fin 12) : (decodePacket f).samples[i] = sampleField f i :=
  Vector.getElem_ofFn i.isLt

/-- The distance of sample `i` as a number, by its bytes (R123). -/
theorem distField_toNat (i : Fin 12) :
    (distField f i).toNat = f[4 + 3 * i.val].toNat + 256 * f[5 + 3 * i.val].toNat := by
  have hhigh : 5 + 3 * i.val = 4 + 3 * i.val + 1 := by omega
  simp only [hhigh]
  exact memRead2_toNat f (4 + 3 * i.val) (by omega)

/-- The confidence of sample `i` is its third byte (R124). -/
theorem confField_eq (i : Fin 12) : confField f i = f[6 + 3 * i.val] :=
  getElem_congr_idx (show 4 + 3 * i.val + 2 = 6 + 3 * i.val by omega)

/-- The bytes of the sample read from lane `i` are the bytes of lane `i` (R74). -/
theorem sampleBytes_sampleField (i : Fin 12) (k : Nat) (hk : k < 3) :
    (sampleBytes (sampleField f i))[k]'hk = f[4 + 3 * i.val + k] :=
  match k, hk with
  | 0, _ => loByte_memRead2 f (4 + 3 * i.val) (by omega)
  | 1, _ => hiByte_memRead2 f (4 + 3 * i.val) (by omega)
  | 2, _ => rfl

/-- ENCODE after DECODE is the payload, byte by byte (R129). -/
theorem encodePacket_decodePacket : encodePacket (decodePacket f) = f := by
  refine Vector.ext fun o ho => ?_
  obtain hfront | ⟨i, k, hk, rfl⟩ | ⟨k, hk, rfl⟩ := payloadOffset_cases o ho
  · match o, hfront with
    | 0, _ => exact loByte_memRead2 f 0 (by decide)
    | 1, _ => exact hiByte_memRead2 f 0 (by decide)
    | 2, _ => exact loByte_memRead2 f 2 (by decide)
    | 3, _ => exact hiByte_memRead2 f 2 (by decide)
  · simp only [encodePacket_sample _ i k hk, decodePacket_samples]
    exact sampleBytes_sampleField f i k hk
  · rw [encodePacket_back _ k hk]
    match k, hk with
    | 0, _ => exact loByte_memRead2 f 40 (by decide)
    | 1, _ => exact hiByte_memRead2 f 40 (by decide)
    | 2, _ => exact loByte_memRead2 f 42 (by decide)
    | 3, _ => exact hiByte_memRead2 f 42 (by decide)
    | 4, _ => rfl

end Bytes

/-- Settles O6: the two inverses, and ENCODE at each offset: the front by unfolding, the samples and the back by their areas. -/
theorem payloadRoundTrip : Obligations.PayloadRoundTrip := by
  intro p f
  refine ⟨decodePacket_encodePacket p, encodePacket_decodePacket f, rfl, rfl, rfl, rfl, fun i => ?_,
    encodePacket_back p 0 (by decide), encodePacket_back p 1 (by decide), encodePacket_back p 2 (by decide),
    encodePacket_back p 3 (by decide), encodePacket_back p 4 (by decide)⟩
  have hhigh : 5 + 3 * i.val = 4 + 3 * i.val + 1 := by omega
  have hconf : 6 + 3 * i.val = 4 + 3 * i.val + 2 := by omega
  simp only [hhigh, hconf]
  exact ⟨encodePacket_sample p i 0 (by decide), encodePacket_sample p i 1 (by decide),
    encodePacket_sample p i 2 (by decide)⟩

/-- Settles O19: the packet returned is `decodePacket f`, each field a read at its offset. -/
theorem decodeFields : Obligations.DecodeFields := by
  intro f s
  refine ⟨decodePacket f, rfl, memRead2_toNat f 0 (by decide), memRead2_toNat f 2 (by decide), fun i => ?_,
    memRead2_toNat f 40 (by decide), memRead2_toNat f 42 (by decide), rfl⟩
  rw [decodePacket_samples]
  exact ⟨distField_toNat f i, confField_eq f i⟩

/-- The scaled value of a raw field is exactly a hundredth of it (R75). -/
theorem scaled_mul_hundred (v : U16) : scaled v * 100 = v.toNat := div_mul_cancel₀ _ (by decide)

/-- Settles O20: each row emits its field, and the fields are the reads of `memRead1` and `memRead2`. -/
theorem fieldRowsComplete : Obligations.FieldRowsComplete := fun f s =>
  ⟨⟨speedField f, rfl, memRead2_toNat f 0 (by decide), scaled_mul_hundred _⟩,
    ⟨fsaField f, rfl, memRead2_toNat f 2 (by decide), scaled_mul_hundred _⟩,
    fun i => ⟨distField f i, rfl, distField_toNat f i, scaled_mul_hundred _⟩,
    fun i => by rw [← confField_eq f i]; rfl,
    ⟨lsaField f, rfl, memRead2_toNat f 40 (by decide), scaled_mul_hundred _⟩,
    ⟨tsField f, rfl, memRead2_toNat f 42 (by decide)⟩, rfl⟩

end Sys2Proof.Machine
end

section
/-! PROOFS. The Angle Interpolator (R140 to R154): the range of the span and of the numerator, the bearings of a packet as
remainders of one arithmetic sweep, and the same bearings in degrees and radians. -/

namespace Sys2Proof.Machine

section Span

variable (fsa lsa : U16)

/-- R141: a span closes on the end angle, or on it one turn later when it does not lie past the start angle. -/
theorem spanOf_eq : spanOf fsa lsa =
    if fsa.toNat < lsa.toNat then (lsa.toNat : Int) - fsa.toNat else (lsa.toNat : Int) - fsa.toNat + 36000 := by
  split
  · exact spanOf_of_lt fsa lsa ‹_›
  · exact spanOf_of_ge fsa lsa (Nat.le_of_not_lt ‹_›)

theorem spanOf_bounds : -29535 ≤ spanOf fsa lsa ∧ spanOf fsa lsa ≤ 65535 := by
  have hfsa := fsa.isLt
  have hlsa := lsa.isLt
  rw [spanOf_eq]
  split <;> omega

theorem spanOf_bounds_of_inTurn (hfsa : fsa.toNat < 36000) (hlsa : lsa.toNat < 36000) :
    1 ≤ spanOf fsa lsa ∧ spanOf fsa lsa ≤ 36000 := by
  rw [spanOf_eq]
  split <;> omega

theorem spanOf_neg_iff : spanOf fsa lsa < 0 ↔ lsa.toNat + 36000 < fsa.toNat := by
  rw [spanOf_eq]
  split <;> omega

/-- The sweep ends at the end angle, as such or one turn later. -/
theorem fsa_add_spanOf : (fsa.toNat : Int) + spanOf fsa lsa = lsa.toNat ∨
    (fsa.toNat : Int) + spanOf fsa lsa = lsa.toNat + 36000 := by
  rw [spanOf_eq]
  split <;> omega

end Span

/-- Settles O21: the value returned is `spanOf`, by its two branches. -/
theorem spanRule : Obligations.SpanRule := fun fsa lsa _ =>
  ⟨spanOf fsa lsa, rfl, spanOf_of_lt fsa lsa, spanOf_of_ge fsa lsa, (spanOf_bounds fsa lsa).1, (spanOf_bounds fsa lsa).2,
    spanOf_bounds_of_inTurn fsa lsa, spanOf_neg_iff fsa lsa⟩

/-- Settles O22: the bearing is the remainder, and the quotient says how many turns are taken off. -/
theorem angRule : Obligations.AngRule := by
  intro fsa span i s
  refine ⟨angOf fsa span i, (span * i.val + 12 * fsa.toNat) / 432000, rfl, angOf_lt fsa span i, ?_⟩
  rw [angOf_cast]
  exact (Int.emod_add_mul_ediv _ _).symm

theorem interpolate_getElem (p : Packet) (k : Nat) (hk : k < 12) : (interpolate p)[k] = pairOf p ⟨k, hk⟩ :=
  Vector.getElem_ofFn hk

theorem interpolate_getElem_fin (p : Packet) (i : Fin 12) : (interpolate p)[i] = pairOf p i := Vector.getElem_ofFn i.isLt

/-- Settles O23: Measurement `i` is `pairOf p i`, which INTERP.PAIR returns. -/
theorem interpolationPairs : Obligations.InterpolationPairs := by
  intro p s
  refine ⟨interpolate p, rfl, fun i => ?_⟩
  rw [interpolate_getElem_fin, ← spanOf_eq, pairOf_ang]
  exact ⟨rfl, rfl, angOf_cast _ _ i, rfl⟩

/-- The numerator is a weighted sum of the start angle and the sweep's end, which are never negative (R147). -/
theorem angNumerator_eq_weighted (fsa lsa : U16) (i : Fin 12) :
    angNumerator fsa (spanOf fsa lsa) i = (12 - i.val) * fsa.toNat + i.val * (fsa.toNat + spanOf fsa lsa) := by
  simp only [angNumerator, Config.interpDiv]
  push_cast
  ring

theorem angNumerator_bounds (fsa lsa : U16) (i : Fin 12) :
    0 ≤ angNumerator fsa (spanOf fsa lsa) i ∧ angNumerator fsa (spanOf fsa lsa) i ≤ 1182420 := by
  have hi : (i.val : Int) ≤ 11 := by omega
  have hfsa := fsa.isLt
  have hlsa := lsa.isLt
  have hend := fsa_add_spanOf fsa lsa
  rw [angNumerator_eq_weighted]
  generalize (fsa.toNat : Int) + spanOf fsa lsa = stop at hend
  constructor
  · have hstart : (0 : Int) ≤ (12 - i.val) * fsa.toNat := mul_nonneg (by omega) (by omega)
    have hstop : (0 : Int) ≤ i.val * stop := mul_nonneg (by omega) (by omega)
    exact add_nonneg hstart hstop
  · have hstart : (11 - i.val : Int) * fsa.toNat ≤ (11 - i.val) * 101535 :=
      mul_le_mul_of_nonneg_left (by omega) (by omega)
    have hstop : (i.val : Int) * stop ≤ i.val * 101535 := mul_le_mul_of_nonneg_left (by omega) (by omega)
    linarith

theorem spanOf_mul_bounds (fsa lsa : U16) (i : Fin 12) :
    -324885 ≤ spanOf fsa lsa * i.val ∧ spanOf fsa lsa * i.val ≤ 720885 := by
  have hi : (i.val : Int) ≤ 11 := by omega
  obtain ⟨hlow, hhigh⟩ := spanOf_bounds fsa lsa
  have hleast : -29535 * (i.val : Int) ≤ spanOf fsa lsa * i.val := mul_le_mul_of_nonneg_right hlow (by omega)
  have hgreatest : spanOf fsa lsa * i.val ≤ 65535 * (i.val : Int) := mul_le_mul_of_nonneg_right hhigh (by omega)
  omega

/-- Settles O24: the numerator's range fixes its quotient, and on a numerator that is not negative the two modulos agree. -/
theorem numeratorBounds : Obligations.NumeratorBounds := by
  refine ⟨rfl, fun fsa lsa i => ?_⟩
  have hfsa := fsa.isLt
  have hlsa := lsa.isLt
  obtain ⟨hspanLow, hspanHigh⟩ := spanOf_bounds fsa lsa
  obtain ⟨hmulLow, hmulHigh⟩ := spanOf_mul_bounds fsa lsa i
  obtain ⟨hnonneg, hle⟩ := angNumerator_bounds fsa lsa i
  have hang := angOf_lt fsa (spanOf fsa lsa) i
  exact ⟨by omega, by omega, hspanLow, hspanHigh, by omega, by omega, hmulLow, hmulHigh, hnonneg, hle, by omega,
    Int.tmod_eq_emod_of_nonneg hnonneg⟩

/-- The bearing of Measurement `k` of a packet before the reduction by one turn, at any index (R142). -/
def sweep (p : Packet) (k : Nat) : Int := spanOf p.fsaRaw p.lsaRaw * k + 12 * p.fsaRaw.toNat

theorem interpolate_ang (p : Packet) (k : Nat) (hk : k < 12) : ((interpolate p)[k].ang : Int) = sweep p k % 432000 := by
  rw [interpolate_getElem, pairOf_ang, angOf_cast, sweep]

@[simp] theorem sweep_zero (p : Packet) : sweep p 0 = 12 * p.fsaRaw.toNat := by simp [sweep]

theorem sweep_succ (p : Packet) (k : Nat) : sweep p (k + 1) = sweep p k + spanOf p.fsaRaw p.lsaRaw := by
  simp only [sweep]
  push_cast
  ring

/-- The twelfth step, which no Measurement takes, would end at the end angle (R154). -/
theorem sweep_twelve (p : Packet) :
    sweep p 12 = 12 * p.lsaRaw.toNat ∨ sweep p 12 = 12 * p.lsaRaw.toNat + 432000 := by
  have hend := fsa_add_spanOf p.fsaRaw p.lsaRaw
  simp only [sweep]
  omega

/-- Settles O25: sample 0 stands at the sweep's start, and one step after sample 11 its end is reached. -/
theorem onlySampleZeroIsPinned : Obligations.OnlySampleZeroIsPinned := by
  intro p
  constructor
  · intro hfsa
    have hang := interpolate_ang p 0 (by decide)
    rw [sweep_zero] at hang
    omega
  · have hend := sweep_twelve p
    rw [sweep_succ p 11] at hend
    rw [interpolate_ang p 11 (by decide), Int.emod_add_emod]
    omega

/-- Settles O26: equal angles take the second branch of the span, so it is one whole turn (R149). -/
theorem equalAnglesFullTurn : Obligations.EqualAnglesFullTurn := by
  intro p i heq
  have hspan : spanOf p.fsaRaw p.lsaRaw = 36000 := by
    rw [heq, spanOf_of_ge _ _ le_rfl]
    omega
  have hang : ((interpolate p)[i].ang : Int) = sweep p i % 432000 := interpolate_ang p i i.isLt
  rw [sweep, hspan] at hang
  omega

/-- A sequence that starts below a bound and never falls meets the bound at one step if at all. -/
theorem countP_crossings {f : Nat → Int} (hf : Monotone f) {bound : Int} (h0 : f 0 < bound) (n : Nat) :
    (List.range n).countP (fun k => decide (f k < bound ∧ bound ≤ f (k + 1))) = if bound ≤ f n then 1 else 0 := by
  induction n with
  | zero => simp [h0]
  | succ n ih =>
    have hstep : f n ≤ f (n + 1) := hf n.le_succ
    rw [List.range_succ, List.countP_append, List.countP_singleton, ih]
    by_cases hn : bound ≤ f n
    · rw [if_pos hn, if_pos (hn.trans hstep), if_neg (by simp [hn])]
    · simp [hn, lt_of_not_ge hn]

section InTurn

variable {p : Packet} (hfsa : p.fsaRaw.toNat < 36000) (hlsa : p.lsaRaw.toNat < 36000)

include hfsa hlsa

theorem sweep_strictMono : StrictMono (sweep p) := by
  refine strictMono_nat_of_lt_succ fun k => ?_
  have hspan := spanOf_bounds_of_inTurn _ _ hfsa hlsa
  rw [sweep_succ]
  omega

/-- In-range angles sweep less than two turns up to sample 11 (R150). -/
theorem sweep_bounds {k : Nat} (hk : k < 12) : 0 ≤ sweep p k ∧ sweep p k < 864000 := by
  have hmono := (sweep_strictMono hfsa hlsa).monotone
  have hfirst : sweep p 0 ≤ sweep p k := hmono k.zero_le
  have hlast : sweep p k < sweep p 12 := sweep_strictMono hfsa hlsa hk
  have hend := sweep_twelve p
  rw [sweep_zero] at hfirst
  omega

/-- A bearing falls exactly where the sweep passes one turn, and no two neighbours are equal (R150). -/
theorem interpolate_ang_step {k : Nat} (hk : k < 11) :
    (interpolate p)[k].ang ≠ (interpolate p)[k + 1].ang ∧
    ((interpolate p)[k + 1].ang < (interpolate p)[k].ang ↔ sweep p k < 432000 ∧ 432000 ≤ sweep p (k + 1)) := by
  have hspan := spanOf_bounds_of_inTurn _ _ hfsa hlsa
  have hbounds := sweep_bounds hfsa hlsa (k := k) (by omega)
  have hbounds' := sweep_bounds hfsa hlsa (k := k + 1) (by omega)
  have hang := interpolate_ang p k (by omega)
  have hang' := interpolate_ang p (k + 1) (by omega)
  rw [sweep_succ] at hang' hbounds' ⊢
  omega

end InTurn

/-- Settles O27: the descents are the crossings of one turn by the sweep, which rises and starts below it. -/
theorem sweepWrapsAtMostOnce : Obligations.SweepWrapsAtMostOnce := by
  intro p hfsa hlsa
  refine ⟨fun i => (interpolate_ang_step hfsa hlsa i.isLt).1, ?_⟩
  have hstart : sweep p 0 < 432000 := by
    rw [sweep_zero]
    omega
  have hcount := countP_crossings (sweep_strictMono hfsa hlsa).monotone hstart 11
  rw [← List.map_coe_finRange_eq_range, List.countP_map, List.countP_eq_length_filter] at hcount
  have hlast : sweep p 11 = 12 * (p.fsaRaw.toNat : Int) + 11 * spanOf p.fsaRaw p.lsaRaw := by
    rw [sweep]
    omega
  rw [← hlast, ← hcount]
  refine congrArg List.length (List.filter_congr fun i _ => ?_)
  exact decide_eq_decide.2 (interpolate_ang_step hfsa hlsa i.isLt).2

section Degrees

variable (m : Measurement)

theorem Measurement.angleDeg_eq : m.angleDeg = (m.ang : Rat) / 1200 := rfl

theorem Measurement.angleRad_eq_angleDeg : m.angleRad = (m.angleDeg : ℝ) * Real.pi / 180 := by
  rw [angleRad, angleDeg_eq]
  push_cast
  ring

/-- R146: `π` is irrational, so only the bearing 0 is rational in radians. -/
theorem Measurement.irrational_angleRad_iff : Irrational m.angleRad ↔ m.ang ≠ 0 := by
  have hrad : m.angleRad = (m.ang : ℝ) * Real.pi / (216000 : ℕ) := rfl
  rw [hrad, irrational_div_natCast_iff, irrational_natCast_mul_iff]
  simp

variable {m}

theorem Measurement.angleDeg_mem_turn (h : m.ang < 432000) : 0 ≤ m.angleDeg ∧ m.angleDeg < 360 := by
  have hang : (m.ang : Rat) < 432000 := by exact_mod_cast h
  rw [angleDeg_eq]
  exact ⟨by positivity, by linarith⟩

/-- Radians keep the order of degrees, and 360 degrees are `2π`. -/
theorem Measurement.angleRad_mem_turn (h : m.ang < 432000) : 0 ≤ m.angleRad ∧ m.angleRad < 2 * Real.pi := by
  have hang : (m.ang : ℝ) < 432000 := by exact_mod_cast h
  rw [angleRad]
  have hscaled := mul_lt_mul_of_pos_right hang Real.pi_pos
  exact ⟨by positivity, by linarith⟩

end Degrees

/-- Settles O28: both renderings stay within one turn below 432000, where every interpolated bearing lies (R142). -/
theorem bearingInRadians : Obligations.BearingInRadians := by
  have hturn (m : Measurement) (h : m.ang < 432000) :
      0 ≤ m.angleDeg ∧ m.angleDeg < 360 ∧ 0 ≤ m.angleRad ∧ m.angleRad < 2 * Real.pi :=
    ⟨(m.angleDeg_mem_turn h).1, (m.angleDeg_mem_turn h).2, m.angleRad_mem_turn h⟩
  refine ⟨fun m => ⟨m.angleDeg_eq, m.angleRad_eq_angleDeg, rfl, m.irrational_angleRad_iff, hturn m⟩, fun p i => hturn _ ?_⟩
  rw [interpolate_getElem_fin]
  exact angOf_lt _ _ i

end Sys2Proof.Machine
end

section
/-! PROOFS. Checksum validation (R162, R165): the verdict and the base design for every `CHK`; and the default CRC (R163), each
step of which can be undone, so that a changed byte changes every running value after it. -/

namespace Sys2Proof.Machine

/-- Any 44 bytes that are the front of the frame are its checked bytes (R161). -/
theorem eq_checkedBytes (f : RawFrame) (c : Vector Byte 44) (hc : c.toList = f.toList.take 44) : c = checkedBytes f :=
  Vector.toList_inj.1 (hc.trans (checkedBytes_toList f).symm)

/-- Settles O16: the verdict is `chksumPasses`, and the 44 bytes given are the checked ones. -/
theorem chksumVerdict : Obligations.ChksumVerdict := by
  intro f c s hc
  rw [eq_checkedBytes f c hc]
  exact ⟨chksumPasses s.cfg f, rfl, chksumPasses_iff s.cfg f⟩

/-- Settles O17: the byte is the boundary row (R100), whose outcome on 45 bytes is a frame whichever `CHK` is configured, since
the check is off; the packet is that of DECODE, which ENCODE inverts. -/
theorem baseDesignReportsEveryFrame : Obligations.BaseDesignReportsEveryFrame := by
  intro s f k hfault hsynced hsaw hoff hf
  obtain ⟨-, -, hcandidate⟩ := boundaryOutcomes { s with cfg := { s.cfg with chk := k } } hfault hsaw
  obtain ⟨-, hframe⟩ := hcandidate f hsynced hf
  have hrow := execRxVerBoundary_eq_execRx { s with cfg := { s.cfg with chk := k } } hsaw
  exact ⟨_, decodePacket f, interpolate (decodePacket f), hrow.symm.trans (hframe (.inl hoff)), rfl, rfl,
    encodePacket_decodePacket f⟩

/-- The polynomial `0x4D` is odd, so the bit shifted out comes back at the bottom. -/
theorem crcBit_getLsbD_zero (c : Byte) : (crcBit c).getLsbD 0 = c.getLsbD 7 := by
  unfold crcBit
  cases c.getLsbD 7 <;> simp

/-- The top bit and the seven shifted ones are all of a byte. -/
theorem eq_of_shiftLeft_one_eq {c d : Byte} (htop : c.getLsbD 7 = d.getLsbD 7) (hshift : c <<< 1 = d <<< 1) : c = d := by
  refine BitVec.eq_of_getLsbD_eq fun i hi => ?_
  obtain rfl | hlow : i = 7 ∨ i + 1 < 8 := by omega
  · exact htop
  · simpa [hlow, hi] using congrArg (·.getLsbD (i + 1)) hshift

/-- The bottom bit tells whether the polynomial was added; without it, what is left is the shift. -/
theorem crcBit_injective : Function.Injective crcBit := by
  intro c d h
  have htop : c.getLsbD 7 = d.getLsbD 7 := by rw [← crcBit_getLsbD_zero c, h, crcBit_getLsbD_zero]
  refine eq_of_shiftLeft_one_eq htop ?_
  unfold crcBit at h
  rw [htop] at h
  split at h
  · exact (BitVec.xor_left_inj _).1 h
  · exact h

theorem crcByte_inj {c d x y : Byte} : crcByte c x = crcByte d y ↔ c ^^^ x = d ^^^ y :=
  (crcBit_injective.iterate 8).eq_iff

/-- Different running values stay different over the same bytes. -/
theorem crcFrom_injective (bs : List Byte) : Function.Injective (crcFrom · bs) := by
  induction bs with
  | nil => exact fun _ _ h => h
  | cons x bs ih => exact fun c d h => (BitVec.xor_left_inj _).1 (crcByte_inj.1 (ih h))

/-- One byte replaced keeps the CRC only when it is replaced by itself. -/
theorem crcFrom_set_eq_iff (b : Byte) (bs : List Byte) (c : Byte) (i : Nat) (hi : i < bs.length) :
    crcFrom c (bs.set i b) = crcFrom c bs ↔ b = bs[i] := by
  induction bs generalizing c i with
  | nil => cases hi
  | cons x bs ih =>
    cases i with
    | zero =>
      show crcFrom (crcByte c b) bs = crcFrom (crcByte c x) bs ↔ b = x
      rw [(crcFrom_injective bs).eq_iff, crcByte_inj, BitVec.xor_right_inj]
    | succ i => exact ih (crcByte c x) i (Nat.lt_of_succ_lt_succ hi)

/-- Settles O18: the payload is fed after the sync pair, whose running value does not depend on it. -/
theorem defaultChkSeesOneByte : Obligations.DefaultChkSeesOneByte := by
  intro p i b hb h
  have hpayload (q : Vector Byte 44) : crc8_4D q = crcFrom (crcFrom 0 [Config.hdr, Config.ver]) q.toList :=
    List.foldl_append
  rw [hpayload, hpayload, Vector.toList_set, crcFrom_set_eq_iff b _ _ i (by simp)] at h
  exact hb h

end Sys2Proof.Machine
end

section
/-! PROOFS. The Measurement Aggregator: its two internal calls and what a list of them adds up to (R171, R172, R177), the
Consumer's two transactions (R173, R174), and the batch as whole packets, at most one for each cycle counted (R175). -/

namespace Sys2Proof.Safety

open Sys2Proof.Machine

/-- AGG.ACCEPT hands over one packet, which is 12 Measurements (R171). -/
theorem accept_batch_length (s : State) (m : Measurements) (v : U16) :
    (s.accept m v).batch.length = s.batch.length + 12 := by simp

theorem batchLaw_accept {s : State} (m : Measurements) (v : U16) (hs : BatchLaw s) : BatchLaw (s.accept m v) := by
  obtain ⟨hle, hwhole⟩ := hs
  rw [BatchLaw, accept_batch_length, State.accept_cycles]
  omega

theorem batchLaw_tick {s : State} (hs : BatchLaw s) : BatchLaw s.tick := by
  obtain ⟨hle, hwhole⟩ := hs
  rw [BatchLaw, State.tick_batch, State.tick_cycles]
  omega

theorem batchLaw_kept : KeptByOperations BatchLaw where
  outside _ _ _ _ hs := hs
  append _ _ _ hs := hs
  close _ hs := hs
  tick _ _ hs := batchLaw_tick hs
  accept _ _ _ hs := batchLaw_accept _ _ hs
  clearBatch _ _ := batchLaw_of_batch_nil rfl
  reset _ _ := batchLaw_of_batch_nil rfl

/-- Settles O46: `BatchLaw` is kept by every operation; a packet of 12 Measurements comes with a cycle of its own. -/
theorem batchWithinCycles : Obligations.BatchWithinCycles := batchLaw_kept.step

/-- A byte counts a cycle exactly when it closes a pair, whatever the outcome of the boundary (R172, R191). -/
theorem execRx_cycles (b : Byte) (s t : State) (h : execRx b s = .next t) :
    t.cycles = s.cycles + if closesPair s.saw b = true then 1 else 0 := by
  cases hc : closesPair s.saw b
  · rw [execRx_of_append b s hc, whileHealthy_eq_next_iff] at h
    obtain ⟨-, ht⟩ := h
    cases ht
    rfl
  · exact (execRx_afterBoundary b s t hc h).cycles

/-- Settles O29: the two calls are `State.accept` and `State.tick`, and a byte closes a pair exactly when it is `VER` with the
flag set (R100). -/
theorem acceptAndTick : Obligations.AcceptAndTick := by
  refine ⟨fun _ _ _ => ⟨rfl, rfl⟩, fun b s t h => (execRx_cycles b s t h).trans ?_⟩
  rw [if_congr (closesPair_iff s.saw b) rfl rfl]

/-- What calls of the aggregator leave: each counts a cycle, and the batch gains what they hand over, in call order. -/
structure AfterCalls (s : State) (calls : List (Option (Measurements × U16))) (t : State) : Prop where
  cfg : t.cfg = s.cfg
  cycles : t.cycles = s.cycles + calls.length
  batch : t.batch = s.batch ++ calls.flatMap handedOver

theorem exec_aggCall (call : Option (Measurements × U16)) (s : State) :
    ∃ t, exec (aggCall call) s = .next t ∧ AfterCalls s [call] t := by
  cases call with
  | none => exact ⟨s.tick, rfl, rfl, rfl, by simp [handedOver]⟩
  | some mv => exact ⟨s.accept mv.1 mv.2, rfl, rfl, rfl, by simp [handedOver]⟩

theorem AfterCalls.cons {call : Option (Measurements × U16)} {calls : List (Option (Measurements × U16))} {s t u : State}
    (hst : AfterCalls s [call] t) (htu : AfterCalls t calls u) : AfterCalls s (call :: calls) u where
  cfg := htu.cfg.trans hst.cfg
  cycles := by rw [htu.cycles, hst.cycles, List.length_singleton, List.length_cons, Nat.add_assoc, Nat.add_comm 1]
  batch := by simp [htu.batch, hst.batch]

/-- A sequence whose first operation answers a next state goes on from there. -/
theorem execAll_cons (i : Instr) (is : List Instr) (s t : State) (h : exec i s = .next t) :
    execAll (i :: is) s = execAll is t := by simp [execAll, h]

theorem execAll_aggCalls (calls : List (Option (Measurements × U16))) (s : State) :
    ∃ t, execAll (calls.map aggCall) s = .next t ∧ AfterCalls s calls t := by
  induction calls generalizing s with
  | nil => exact ⟨s, rfl, rfl, rfl, (List.append_nil _).symm⟩
  | cons call calls ih =>
    obtain ⟨t, ht, hcall⟩ := exec_aggCall call s
    obtain ⟨u, hu, hcalls⟩ := ih t
    exact ⟨u, (execAll_cons _ _ s t ht).trans hu, hcall.cons hcalls⟩

/-- Settles O32: from nothing counted and nothing held, the counter is the number of calls and the batch what they handed over;
SHOULD_FLUSH compares the one with the threshold and FLUSH returns the other. -/
theorem thresholdCountsEveryCall : Obligations.ThresholdCountsEveryCall := by
  intro calls s hcycles hbatch
  obtain ⟨t, ht, hcalls⟩ := execAll_aggCalls calls s
  have hcount : t.cycles = calls.length := by rw [hcalls.cycles, hcycles, Nat.zero_add]
  have hheld : t.batch = calls.flatMap handedOver := by rw [hcalls.batch, hbatch, List.nil_append]
  refine ⟨t, reportedSpeed t.speedValid t.speed, ht, ?_, ?_⟩
  · rw [← hcount, ← hcalls.cfg]
    rfl
  · rw [← hheld]
    rfl

/-- Settles O33: with a cycle to spare before the threshold the batch has room for one packet more (R175); where it has not, the
bounded operation refuses (U7). -/
theorem boundedBatchSuffices : Obligations.BoundedBatchSuffices := by
  rintro s m v ⟨hle, -⟩
  refine ⟨fun hdue => ?_, fun capacity hfull => if_neg (Nat.not_le_of_lt hfull)⟩
  have hroom : s.batch.length + 12 ≤ 12 * s.cfg.flushThreshold := by omega
  exact if_pos hroom

/-- Settles O30: the value returned is `flushDue`, a comparison of the counter with the threshold. -/
theorem shouldFlushIsALevel : Obligations.ShouldFlushIsALevel := fun s =>
  ⟨flushDue s.cycles s.cfg.flushThreshold, rfl, decide_eq_true_iff⟩

/-- FLUSH whole: the Batch is returned with the speed that `speed_valid` lets it report (R174). -/
theorem exec_flush (s : State) : exec .flush s =
    .next { s with
      batch := [], cycles := 0, trace := s.trace ++ [.batch s.batch (reportedSpeed s.speedValid s.speed)] } := rfl

/-- Settles O31: the speed is reported exactly when it is valid. -/
theorem flushReturnsTheBatch : Obligations.FlushReturnsTheBatch := by
  refine fun s => ⟨fun hvalid => ?_, fun hvalid => ?_⟩ <;> rw [exec_flush, hvalid]
  · rfl
  · rfl

end Sys2Proof.Safety
end

section
/-! PROOFS. The acceptance of transactions: the Byte Source's while it has not failed (R194), the Consumer's in every state
(R193), and so every transaction of an environment that keeps its duty (R197). -/

namespace Sys2Proof.Machine

theorem execRx_of_fault (b : Byte) (s : State) (h : s.fault = true) : execRx b s = .refused .sourceFailed :=
  whileHealthy_of_fault s _ h

/-- The first byte of a chunk is refused, which ends the chunk (R193). -/
theorem receive_of_fault (b : Byte) (bs : List Byte) (s : State) (h : s.fault = true) :
    receive (b :: bs) s = .refused .sourceFailed := by
  simp only [receive, execRx_of_fault b s h]

/-- Settles O35: every row of the Byte Source runs under `whileHealthy`, FRAME from its first byte on; the Consumer's do not. -/
theorem refusalWhileFaulted : Obligations.RefusalWhileFaulted := fun s hfault =>
  ⟨fun b => execRx_of_fault b s hfault,
    (whileHealthy_of_fault s _ hfault : execRxHdr s = _),
    (whileHealthy_of_fault s _ hfault : execRxVerSeeking s = _),
    (whileHealthy_of_fault s _ hfault : execRxVerBoundary s = _),
    fun b => (whileHealthy_of_fault s _ hfault : execRxDat b s = _),
    fun _ => receive_of_fault _ _ s hfault,
    (whileHealthy_of_fault s _ hfault : execSrcFail s = _),
    ⟨_, rfl⟩, ⟨_, rfl⟩, ⟨_, rfl⟩⟩

/-- A byte that closes a pair never returns NONE: the boundary delivers a frame or discards one (R103, R191). -/
theorem execRx_event_of_closesPair (b : Byte) (s t : State) (hclose : closesPair s.saw b = true)
    (h : execRx b s = .next t) : ∃ e, t.trace = s.trace ++ [.event e] ∧ e ≠ .none := by
  obtain ⟨hopen, -⟩ | ⟨c, rfl⟩ | ⟨p, rfl⟩ := execRx_effects b s t h
  · exact absurd hclose (Bool.eq_false_iff.1 hopen)
  · exact ⟨.discard c, rfl, nofun⟩
  · exact ⟨.frame p (interpolate p), rfl, nofun⟩

/-- Settles O9: the byte is appended unless it closes a pair, and then the boundary's outcome is the step's one event. -/
theorem rxAlwaysAccepted : Obligations.RxAlwaysAccepted := by
  refine fun b s hfault => ⟨fun hopen => ?_, fun hsaw hver => ?_⟩
  · have happend : closesPair s.saw b = false := Bool.eq_false_iff.2 fun hc => hopen ((closesPair_iff _ _).1 hc)
    exact (execRx_of_append b s happend).trans (whileHealthy_of_healthy s _ hfault)
  · have hclose : closesPair s.saw b = true := (closesPair_iff _ _).2 ⟨hsaw, hver⟩
    have hb := execRx_of_healthy b s hfault
    have hclosed := Safety.execRx_afterBoundary b s _ hclose hb
    obtain ⟨e, htrace, he⟩ := execRx_event_of_closesPair b s _ hclose hb
    exact ⟨_, e, hb, hclosed.acc, hclosed.saw, hclosed.synced, hclosed.cycles, htrace, he⟩

/-- Where every state of `P` steps to a state of `P`, a run from one answers a next state, however long it is. -/
theorem run_next_of_progress {P : State → Prop} (hP : ∀ s, P s → ∃ t, step s = .next t ∧ P t) (k : Nat) (s : State)
    (hs : P s) : ∃ t, core.run k s = .next t := by
  induction k generalizing s with
  | zero => exact ⟨s, rfl⟩
  | succ k ih =>
    obtain ⟨t, hstep, ht⟩ := hP s hs
    obtain ⟨u, hrun⟩ := ih t ht
    exact ⟨u, (run_succ_of_next k s t hstep).trans hrun⟩

end Sys2Proof.Machine

namespace Sys2Proof.Safety

open Sys2Proof.Machine

theorem admissible_rx_iff (fault : Bool) (b : Byte) (rest : List Transaction) :
    admissible fault (.rx b :: rest) = true ↔ fault = false ∧ admissible fault rest = true := by
  simp [admissible]

theorem admissible_srcFail_iff (fault : Bool) (rest : List Transaction) :
    admissible fault (.srcFail :: rest) = true ↔ fault = false ∧ admissible true rest = true := by
  simp [admissible]

/-- What is pending keeps the duty of R197 from the present state of the Byte Source on. -/
abbrev Dutiful (s : State) : Prop := admissible s.fault s.pending = true

/-- The step takes the transaction that the duty allows: a byte leaves `fault` at 0, SRC_FAIL sets it and the duty then speaks
of a failed source, RESET clears it, and the Consumer's other two are accepted whatever it is. -/
theorem dutiful_step (s : State) (hs : Dutiful s) : ∃ t, step s = .next t ∧ Dutiful t := by
  obtain ⟨-, hstep⟩ | ⟨x, rest, hpending, -⟩ := step_cases s
  · exact ⟨s, hstep, hs⟩
  have hstep := step_cons s x rest hpending
  rw [Dutiful, hpending] at hs
  cases x with
  | rx b =>
    obtain ⟨hfault, hrest⟩ := (admissible_rx_iff _ b rest).1 hs
    have hb := execRx_of_healthy b { s with pending := rest } hfault
    have hkept := execRx_kept b _ _ hb
    refine ⟨_, (step_rx s b rest hpending).trans hb, ?_⟩
    rwa [Dutiful, hkept.fault, hkept.pending]
  | srcFail =>
    obtain ⟨hfault, hrest⟩ := (admissible_srcFail_iff _ rest).1 hs
    exact ⟨_, hstep.trans ((execSrcFail_eq_next_iff { s with pending := rest } _).2 ⟨hfault, rfl⟩), hrest⟩
  | reset => exact ⟨_, hstep, hs⟩
  | shouldFlush => exact ⟨_, hstep, hs⟩
  | flush => exact ⟨_, hstep, hs⟩

/-- Settles O58: the duty is an invariant under which every state has a step. -/
theorem dutifulEnvironmentNeverRefused : Obligations.DutifulEnvironmentNeverRefused := fun s hs =>
  ⟨dutiful_step s hs, fun k => run_next_of_progress dutiful_step k s hs⟩

end Sys2Proof.Safety
end

section
/-! PROOFS. The two error conditions: a discard, from which the block goes on at once (R212), and the failure of the Byte
Source (R216). -/

namespace Sys2Proof.Machine

theorem trace_append_event_inj {s : State} {e e' : Event} (h : s.trace ++ [.event e] = s.trace ++ [.event e']) : e = e' := by
  simpa using h

/-- What a byte that returns DISCARD leaves, the same for every cause, and the condition of each cause in the order of R217. -/
theorem execRx_discard_cases (b : Byte) (s t : State) (c : Cause) (h : execRx b s = .next t)
    (htrace : t.trace = s.trace ++ [.event (.discard c)]) :
    t = s.closeFrame.markSynced.raiseDiscard c ∧
    ((c = .unsync ∧ s.synced = false) ∨
     (c = .length ∧ s.synced = true ∧ (candidate s.acc).length ≠ 45) ∨
     (c = .checksum ∧ s.synced = true ∧ (candidate s.acc).length = 45 ∧ s.cfg.checkEn = true)) := by
  obtain ⟨-, ⟨-, rfl⟩ | ⟨-, hs, rfl⟩ | ⟨-, hs, hlen, rfl⟩ | ⟨-, hs, f, hf, hfail, rfl⟩ | ⟨-, -, f, -, -, rfl⟩⟩ :=
    execRx_cases b s t h
  · exact nomatch trace_append_event_inj htrace
  · cases trace_append_event_inj htrace
    exact ⟨rfl, .inl ⟨rfl, hs⟩⟩
  · cases trace_append_event_inj htrace
    rw [s.closeFrame_markSynced_of_synced hs]
    exact ⟨rfl, .inr (.inl ⟨rfl, hs, hlen⟩)⟩
  · cases trace_append_event_inj htrace
    rw [s.closeFrame_markSynced_of_synced hs]
    have hlen : (candidate s.acc).length = 45 := hf ▸ f.length_toList
    exact ⟨rfl, .inr (.inr ⟨rfl, hs, hlen, ((chksumPasses_eq_false_iff _ f).1 hfail).1⟩)⟩
  · exact nomatch trace_append_event_inj htrace

/-- Settles O14: the state is the closed one with the cycle counted, and the three causes exclude each other by `synced` and by
the candidate's length. -/
theorem discardEffect : Obligations.DiscardEffect := by
  intro s t b c h htrace
  obtain ⟨rfl, ⟨rfl, hs⟩ | ⟨rfl, hs, hlen⟩ | ⟨rfl, hs, hlen, hcheck⟩⟩ := execRx_discard_cases b s t c h htrace
  · exact ⟨rfl, iff_of_true rfl hs, nofun, nofun⟩
  · exact ⟨rfl, iff_of_false nofun (by simp [hs]), fun _ => hlen, nofun⟩
  · exact ⟨rfl, iff_of_false nofun (by simp [hs]), nofun, fun _ => ⟨hlen, hcheck⟩⟩

/-- Settles O34: SRC_FAIL raises its error while the block is healthy and is refused otherwise (R193). -/
theorem sourceFailure : Obligations.SourceFailure := fun s =>
  ⟨fun hfault => (execSrcFail_eq_next_iff s _).2 ⟨hfault, rfl⟩,
    fun hfault => (whileHealthy_of_fault s _ hfault : execSrcFail s = _)⟩

end Sys2Proof.Machine
end

section
/-! PROOFS. The hazard of a sync pair inside a payload (R251): each of the two pieces it leaves is closed as a discard. And
RESET, the way back from every state (R240). -/

namespace Sys2Proof.Safety

open Sys2Proof.Machine

/-- A piece between two pairs that is not 45 bytes long is discarded at the pair that closes it, which leads from boundary to
boundary (R103, R105). -/
theorem JustClosed.runFeed_discardedPiece {s : State} (h : JustClosed s) (piece : List Byte) (hpair : hasPair piece = false)
    (hlen : piece.length ≠ 45) :
    JustClosed (runFeed s (piece ++ [Config.hdr, Config.ver])).1 ∧
    (runFeed s (piece ++ [Config.hdr, Config.ver])).2 =
      List.replicate (piece.length + 1) .none ++ [.discarded .length] := by
  obtain ⟨-, hheld, hheldSynced⟩ := h.runFeed_noPair piece hpair
  obtain ⟨hnext, hevents⟩ := h.runFeed_closed piece hpair
  rw [boundary_append_hdr_length _ hheldSynced (by rwa [hheld])] at hevents
  exact ⟨hnext, hevents⟩

/-- Settles O53: the false pair cuts the payload into two pieces, each at most 43 bytes long, and each is discarded at the pair
behind it. -/
theorem falseSyncCostsTwoDiscards : Obligations.FalseSyncCostsTwoDiscards := by
  intro s front back hsynced hsaw hacc hlen hfront hback
  have hs : JustClosed s := ⟨hacc, hsaw, hsynced⟩
  obtain ⟨hfalse, hfrontEvents⟩ := hs.runFeed_discardedPiece front hfront (by omega)
  obtain ⟨-, hbackEvents⟩ := hfalse.runFeed_discardedPiece back hback (by omega)
  rw [List.append_assoc _ back, runFeed_append, hfrontEvents, hbackEvents, ← List.append_assoc]

/-- Settles O36: RESET reads no element of the state, `fault` included, so its answer is `State.resetElements` in each (R240). -/
theorem resetComplete : Obligations.ResetComplete := fun s =>
  (rfl : exec .reset s = .next s.resetElements)

end Sys2Proof.Safety
end
